-- ==== Sys2Proof/Word.lean ====
section
/-! DEFINITION. The word types of the block (00_scope.md R9, R14): a byte, the two unsigned operand widths,
and the 64-bit pattern of a binary64 value. -/

namespace Sys2Proof

/-- `u8` of R14. -/
abbrev Byte := BitVec 8

/-- `u16` and the bit pattern of `i16` of R14. -/
abbrev U16 := BitVec 16

/-- `u32` of R14. -/
abbrev U32 := BitVec 32

/-- The 64-bit pattern of an IEEE 754 binary64 value (`f64` of R14). -/
abbrev F64 := BitVec 64

end Sys2Proof
end

