-- ==== Sys2Proof/Config.lean ====
section
/-! DEFINITION. The configuration of the block: its fixed dimensions (00_scope.md R8), the types of its open
parameters (R10), and the free values, which have no body, so that nothing can be proved about them. The parameters'
default VALUES stand in Machine/Params.lean, SIN and COS in Machine/Geometry.lean. -/

namespace Sys2Proof

/-- `WIDEN8_MODE` of R10: how an 8-bit address form widens to ten bits (40_address_codec.md R106). -/
inductive Widen8Mode where
  | address
  | raw
  deriving DecidableEq, Repr

/-- The open parameters of R10 that are data. A block is built with them, and nothing it does writes them. -/
structure Params where
  /-- `INIT_SEQ`, a list of 27 bytes; which are admissible is `Params.Admissible` (R133, log 4) -/
  initSeq : Vector Byte 27
  /-- `WIDEN8_MODE` (log 5) -/
  widen8Mode : Widen8Mode
  /-- `BASE_ANGLE` (log 6) -/
  baseAngle : F64
  deriving DecidableEq, Repr

/-- The configuration functions `SIN` and `COS` of R10. A meaning takes them as an argument. -/
structure Trig where
  sin : F64 → F64
  cos : F64 → F64

namespace Config

/-- `WIDTH` of R8, in columns. -/
def width : Nat := 128

/-- `HEIGHT` of R8, in rows. -/
def height : Nat := 64

/-- `PAGES` of R8. -/
def pages : Nat := 8

/-- `PAGE_BYTES` of R8. -/
def pageBytes : Nat := 128

/-- FREE VALUE. The Transport's `n`-th answer once its queue of fixed answers is used up: "a free input (a draw)"
(10_state.md R39). Log 2. -/
opaque freeOk : Nat → Bool

/-- FREE VALUE. `SIN` before the limit P_TRIG is imposed (44_animation.md R208). Log 3. -/
opaque freeSin : F64 → F64

/-- FREE VALUE. `COS` before the limit P_TRIG is imposed (44_animation.md R208). Log 3. -/
opaque freeCos : F64 → F64

/-- FREE VALUE. What truncating an infinity or a NaN gives: R208 says that this does not arise under P_TRIG and states
no result. Log 19. -/
opaque freeTrunc : F64 → Int

end Config
end Sys2Proof
end

