-- ==== Sys2Proof/Syntax.lean ====
section
/-! DEFINITION. The instructions: one constructor for each row of spec/opcode_table.json. The first 24 are the host
commands (30_encoding.md R71), the next six the ranges of illegal opcodes (R78), the last eight the wire vocabulary that
the block emits (R85 to R91). -/

namespace Sys2Proof

/-- One constructor per row of the opcode table. Operands keep the width the spec gives them (R72); `i16` operands
are held as their 16-bit pattern and read as integers where they are used (R73). -/
inductive Instr where
  /-- NOP, R230 -/
  | nop
  /-- ADDR_SET, R101 -/
  | addrSet (tag : Byte) (value : U16)
  /-- ADDR_GET, R102 -/
  | addrGet
  /-- CONV_TO7, R103 -/
  | convTo7
  /-- CONV_TO8W, R104 -/
  | convTo8W
  /-- CONV_TO8R, R105 -/
  | convTo8R
  /-- CONV_TO10, R106 -/
  | convTo10
  /-- SEND_CMD, R136 -/
  | sendCmd (b : Byte)
  /-- SEND_DATA, R137; the length field is the length of `data` -/
  | sendData (data : List Byte)
  /-- INIT, R134 -/
  | initDisplay
  /-- CLEAR, R135 -/
  | clearDisplay
  /-- FB_ZERO, R160 -/
  | fbZero
  /-- SET_PIXEL, R161 -/
  | setPixel (x y : U16)
  /-- ENCODE_PAGE, R162 -/
  | encodePage (page : Byte)
  /-- DECODE_PAGE, R163 -/
  | decodePage (page : Byte) (d : List Byte)
  /-- FLUSH, R164 -/
  | flush
  /-- DRAW_LINE, R180 -/
  | drawLine (x0 y0 x1 y1 : U16)
  /-- TRIANGLE, R205 -/
  | triangle (idx : U32)
  /-- DRAW_FRAME, R206 -/
  | drawFrame (idx : U32)
  /-- RUN_ANIM, R213 -/
  | runAnim (duration fps : F64)
  /-- ANIM_STATUS, R214 -/
  | animStatus
  /-- BEGIN, R231 -/
  | beginSession
  /-- STATUS, R232 -/
  | status
  /-- STATUS_CLEAR, R233 -/
  | statusClear
  /-- An opcode in 0x07..0x0F, R78 -/
  | illegal07 (op : Byte)
  /-- An opcode in 0x14..0x1F, R78 -/
  | illegal14 (op : Byte)
  /-- An opcode in 0x25..0x2F, R78 -/
  | illegal25 (op : Byte)
  /-- An opcode in 0x31..0x3F, R78 -/
  | illegal31 (op : Byte)
  /-- An opcode in 0x44..0x4F, R78 -/
  | illegal44 (op : Byte)
  /-- An opcode in 0x53..0xFF, R78 -/
  | illegal53 (op : Byte)
  /-- W_CMD, R85: the command transfer `[0x00, cmd]` -/
  | wCmd (cmd : Byte)
  /-- W_DATA, R86: the data transfer `[0x40] ++ payload` -/
  | wData (payload : List Byte)
  /-- CTRL_BYTE, R87: the control byte, `d` being its bit 6 -/
  | ctrlByte (d : Bool)
  /-- PAGE_SELECT, R88 -/
  | pageSelect (p : BitVec 3)
  /-- COL_LOW, R89 -/
  | colLow
  /-- COL_HIGH, R89 -/
  | colHigh
  /-- HDR10, R90: the header byte of a 10-bit address, `a` its bits 9..8 and `r` its read bit -/
  | hdr10 (a : BitVec 2) (r : Bool)
  /-- INIT_BYTE, R91: the initialisation byte of index `i` -/
  | initByte (i : Fin 27)
  deriving DecidableEq, Repr

/-- Whether the host can deliver the instruction on the command port (R71, R78); the others are wire items, which the
block emits. -/
def Instr.isHost : Instr → Bool
  | .wCmd _ | .wData _ | .ctrlByte _ | .pageSelect _ | .colLow | .colHigh | .hdr10 _ _ | .initByte _ => false
  | .nop | .addrSet _ _ | .addrGet | .convTo7 | .convTo8W | .convTo8R | .convTo10 | .sendCmd _ | .sendData _
  | .initDisplay | .clearDisplay | .fbZero | .setPixel _ _ | .encodePage _ | .decodePage _ _ | .flush
  | .drawLine _ _ _ _ | .triangle _ | .drawFrame _ | .runAnim _ _ | .animStatus | .beginSession | .status
  | .statusClear | .illegal07 _ | .illegal14 _ | .illegal25 _ | .illegal31 _ | .illegal44 _ | .illegal53 _ => true

end Sys2Proof
end

