-- ==== Sys2Proof/WellFormed.lean ====
section
/-! DEFINITION. Which terms of `Instr` an encoding can carry: the length of SEND_DATA's payload fits its `u16` field,
DECODE_PAGE has its 128 bytes (30_encoding.md R72), an illegal opcode lies in its own range (R78), and a data
transfer is no longer than SEND_DATA can make it (R86). -/

namespace Sys2Proof

/-- The opcode lies in the range `lo..hi`, inclusive. -/
def opIn (lo hi : Nat) (op : Byte) : Bool := lo ≤ op.toNat && op.toNat ≤ hi

/-- The well-formedness check, a Bool. -/
def Instr.wf : Instr → Bool
  | .sendData data => data.length ≤ 65535
  | .decodePage _ d => d.length == 128
  | .illegal07 op => opIn 0x07 0x0F op
  | .illegal14 op => opIn 0x14 0x1F op
  | .illegal25 op => opIn 0x25 0x2F op
  | .illegal31 op => opIn 0x31 0x3F op
  | .illegal44 op => opIn 0x44 0x4F op
  | .illegal53 op => opIn 0x53 0xFF op
  | .wData payload => payload.length ≤ 65535
  | .nop | .addrSet _ _ | .addrGet | .convTo7 | .convTo8W | .convTo8R | .convTo10 | .sendCmd _
  | .initDisplay | .clearDisplay | .fbZero | .setPixel _ _ | .encodePage _ | .flush
  | .drawLine _ _ _ _ | .triangle _ | .drawFrame _ | .runAnim _ _ | .animStatus | .beginSession | .status
  | .statusClear | .wCmd _ | .ctrlByte _ | .pageSelect _ | .colLow | .colHigh | .hdr10 _ _ | .initByte _ => true

end Sys2Proof
end

