-- ==== Sys2Proof/Decode.lean ====
section
/-! DEFINITION. The two encodings of 30_encoding.md: Part A, the host commands (opcode map R71, formats R72, operand
assembly R73, length decoding R74, illegal opcodes R78), and Part B, the wire items (R85 to R91), each as a decoder and,
after the decoders, one encoder written from the same tables. -/

namespace Sys2Proof

/-! ### Little-endian numbers (R52, R73) -/

/-- The number whose little-endian bytes are `bs`: byte k weighs 2^(8k). -/
def leNat : List Byte → Nat
  | [] => 0
  | b :: bs => b.toNat + 256 * leNat bs

/-- The `n` low bytes of `v`, least significant first. -/
def leBytes : Nat → Nat → List Byte
  | 0, _ => []
  | n + 1, v => BitVec.ofNat 8 v :: leBytes n (v / 256)

/-- A `u16` operand or the pattern of an `i16` operand. -/
def u16OfBytes (bs : List Byte) : U16 := BitVec.ofNat 16 (leNat bs)

/-- A `u32` operand. -/
def u32OfBytes (bs : List Byte) : U32 := BitVec.ofNat 32 (leNat bs)

/-- The pattern of an `f64` operand: "Every pattern is accepted" (R73). -/
def f64OfBytes (bs : List Byte) : F64 := BitVec.ofNat 64 (leNat bs)

def u16le (v : U16) : List Byte := leBytes 2 v.toNat

def u32le (v : U32) : List Byte := leBytes 4 v.toNat

def f64le (v : F64) : List Byte := leBytes 8 v.toNat

/-! ### The opcode map (R71) and the formats (R72) -/

/-- The 24 commands of R71. -/
inductive Op where
  | nop | addrSet | addrGet | convTo7 | convTo8W | convTo8R | convTo10
  | sendCmd | sendData | initDisplay | clearDisplay
  | fbZero | setPixel | encodePage | decodePage | flush
  | drawLine | triangle | drawFrame | runAnim | animStatus
  | beginSession | status | statusClear
  deriving DecidableEq, Repr

/-- The formats of R72. -/
inductive Format where
  | h0 | h1 | ha | hd | hp | hxy | hl | hi | hf
  deriving DecidableEq, Repr

/-- A row of R71's table. -/
structure OpRow where
  code : Byte
  op : Op
  format : Format
  deriving DecidableEq, Repr

def codecRows : List OpRow :=
  [⟨0x00#8, .nop, .h0⟩, ⟨0x01#8, .addrSet, .ha⟩, ⟨0x02#8, .addrGet, .h0⟩, ⟨0x03#8, .convTo7, .h0⟩,
   ⟨0x04#8, .convTo8W, .h0⟩, ⟨0x05#8, .convTo8R, .h0⟩, ⟨0x06#8, .convTo10, .h0⟩]

def framerRows : List OpRow :=
  [⟨0x10#8, .sendCmd, .h1⟩, ⟨0x11#8, .sendData, .hd⟩, ⟨0x12#8, .initDisplay, .h0⟩,
   ⟨0x13#8, .clearDisplay, .h0⟩]

def frameBufferRows : List OpRow :=
  [⟨0x20#8, .fbZero, .h0⟩, ⟨0x21#8, .setPixel, .hxy⟩, ⟨0x22#8, .encodePage, .h1⟩,
   ⟨0x23#8, .decodePage, .hp⟩, ⟨0x24#8, .flush, .h0⟩, ⟨0x30#8, .drawLine, .hl⟩]

def sequencerRows : List OpRow :=
  [⟨0x40#8, .triangle, .hi⟩, ⟨0x41#8, .drawFrame, .hi⟩, ⟨0x42#8, .runAnim, .hf⟩, ⟨0x43#8, .animStatus, .h0⟩,
   ⟨0x50#8, .beginSession, .h0⟩, ⟨0x51#8, .status, .h0⟩, ⟨0x52#8, .statusClear, .h0⟩]

/-- R71's table. -/
def opTable : List OpRow := codecRows ++ framerRows ++ frameBufferRows ++ sequencerRows

/-- The row of an opcode byte; none for an illegal opcode (R78). -/
def opRow? (b : Byte) : Option OpRow := opTable.find? fun r => r.code == b

/-- The length of a command, from its opcode and the two bytes after it (R74). -/
def commandLength (op lo hi : Byte) : Nat :=
  match opRow? op with
  | none => 1
  | some r =>
    match r.format with
    | .h0 => 1
    | .h1 => 2
    | .ha => 4
    | .hd => 3 + leNat [lo, hi]
    | .hp => 130
    | .hxy => 5
    | .hl => 9
    | .hi => 5
    | .hf => 17

/-- The instruction of an illegal opcode: the range of R78 it lies in. -/
def illegalInstr (op : Byte) : Instr :=
  if op.toNat ≤ 0x0F then .illegal07 op
  else if op.toNat ≤ 0x1F then .illegal14 op
  else if op.toNat ≤ 0x2F then .illegal25 op
  else if op.toNat ≤ 0x3F then .illegal31 op
  else if op.toNat ≤ 0x4F then .illegal44 op
  else .illegal53 op

/-! ### The host decoder -/

/-- What the decoder finds at the head of a byte stream: a whole command and the bytes after it, or the head of a
command whose bytes have not all arrived (R77). Every byte starts a command (R74), so nothing else can happen. -/
inductive Decoded where
  | command (i : Instr) (rest : List Byte)
  | incomplete
  deriving DecidableEq, Repr

/-- The operands of a command, by its format (R72), from the bytes after the opcode. -/
def decodeOperands (op : Op) (bs : List Byte) : Decoded :=
  match op with
  | .nop => .command .nop bs
  | .addrSet =>
    match bs with
    | t :: lo :: hi :: rest => .command (.addrSet t (u16OfBytes [lo, hi])) rest
    | _ => .incomplete
  | .addrGet => .command .addrGet bs
  | .convTo7 => .command .convTo7 bs
  | .convTo8W => .command .convTo8W bs
  | .convTo8R => .command .convTo8R bs
  | .convTo10 => .command .convTo10 bs
  | .sendCmd =>
    match bs with
    | b :: rest => .command (.sendCmd b) rest
    | _ => .incomplete
  | .sendData =>
    match bs with
    | lo :: hi :: rest =>
      if leNat [lo, hi] ≤ rest.length then
        .command (.sendData (rest.take (leNat [lo, hi]))) (rest.drop (leNat [lo, hi]))
      else .incomplete
    | _ => .incomplete
  | .initDisplay => .command .initDisplay bs
  | .clearDisplay => .command .clearDisplay bs
  | .fbZero => .command .fbZero bs
  | .setPixel =>
    match bs with
    | x0 :: x1 :: y0 :: y1 :: rest => .command (.setPixel (u16OfBytes [x0, x1]) (u16OfBytes [y0, y1])) rest
    | _ => .incomplete
  | .encodePage =>
    match bs with
    | p :: rest => .command (.encodePage p) rest
    | _ => .incomplete
  | .decodePage =>
    match bs with
    | p :: rest =>
      if 128 ≤ rest.length then .command (.decodePage p (rest.take 128)) (rest.drop 128) else .incomplete
    | _ => .incomplete
  | .flush => .command .flush bs
  | .drawLine =>
    match bs with
    | a0 :: a1 :: b0 :: b1 :: c0 :: c1 :: d0 :: d1 :: rest =>
      .command
        (.drawLine (u16OfBytes [a0, a1]) (u16OfBytes [b0, b1]) (u16OfBytes [c0, c1]) (u16OfBytes [d0, d1])) rest
    | _ => .incomplete
  | .triangle =>
    match bs with
    | b0 :: b1 :: b2 :: b3 :: rest => .command (.triangle (u32OfBytes [b0, b1, b2, b3])) rest
    | _ => .incomplete
  | .drawFrame =>
    match bs with
    | b0 :: b1 :: b2 :: b3 :: rest => .command (.drawFrame (u32OfBytes [b0, b1, b2, b3])) rest
    | _ => .incomplete
  | .runAnim =>
    if 16 ≤ bs.length then
      .command (.runAnim (f64OfBytes (bs.take 8)) (f64OfBytes ((bs.drop 8).take 8))) (bs.drop 16)
    else .incomplete
  | .animStatus => .command .animStatus bs
  | .beginSession => .command .beginSession bs
  | .status => .command .status bs
  | .statusClear => .command .statusClear bs

/-- The host decoder, total on any bytes. An illegal opcode is a one-byte command of its own (R78). -/
def decodeHost : List Byte → Decoded
  | [] => .incomplete
  | b :: bs =>
    match opRow? b with
    | some r => decodeOperands r.op bs
    | none => .command (illegalInstr b) bs

/-! ### The wire decoder -/

/-- The control byte of R87: 0x40 when `d` is set (data), else 0x00 (command). -/
def ctrlByteOf (d : Bool) : Byte := if d then 0x40#8 else 0x00#8

/-- The page-select command byte `0xB0 | page` of R88. -/
def pageSelectByte (p : BitVec 3) : Byte := 0xB0#8 ||| p.setWidth 8

/-- The header byte of R90: bits 7..3 are 11110, bits 2..1 are `a`, bit 0 is `r`. -/
def hdr10Byte (a : BitVec 2) (r : Bool) : Byte := 0xF0#8 ||| ((a.setWidth 8) <<< 1) ||| (if r then 1#8 else 0#8)

/-- Where in the emitted bytes an item stands. The wire bytes say what they are only by their place: 0x00 is a control
byte at the head of a transfer, a low-column command before a page, and three of the initialisation bytes. -/
inductive WirePlace where
  /-- a whole transfer, as handed to the Transport (R85, R86) -/
  | transfer
  /-- the first byte of a transfer (R87) -/
  | control
  /-- a command byte sent before a page (R88, R89) -/
  | command
  /-- the header byte of a 10-bit address (R90) -/
  | header
  /-- the command byte of index `k` in INIT (R91) -/
  | init (k : Fin 27)
  deriving DecidableEq, Repr

/-- The wire decoder, for a block whose `INIT_SEQ` is `seq`: the item that `bs` is at a place, none where the block emits
no such bytes there. -/
def decodeWire (seq : Vector Byte 27) (place : WirePlace) (bs : List Byte) : Option Instr :=
  match place, bs with
  | .transfer, c :: p =>
    if c = 0x00#8 then
      match p with
      | [cmd] => some (.wCmd cmd)
      | _ => none
    else if c = 0x40#8 ∧ p.length ≤ 65535 then some (.wData p)
    else none
  | .control, [c] =>
    if c = 0x00#8 then some (.ctrlByte false) else if c = 0x40#8 then some (.ctrlByte true) else none
  | .command, [b] =>
    if b = 0x00#8 then some .colLow
    else if b = 0x10#8 then some .colHigh
    else if b &&& 0xF8#8 = 0xB0#8 then some (.pageSelect (b.setWidth 3))
    else none
  | .header, [b] =>
    if b &&& 0xF8#8 = 0xF0#8 then some (.hdr10 ((b >>> 1).setWidth 2) (b.getLsbD 0)) else none
  | .init k, [b] => if b = seq.get k then some (.initByte k) else none
  | .transfer, [] => none
  | .control, _ => none
  | .command, _ => none
  | .header, _ => none
  | .init _, _ => none

/-- The place at which a wire item stands; none for a host command. -/
def Instr.place? : Instr → Option WirePlace
  | .wCmd _ | .wData _ => some .transfer
  | .ctrlByte _ => some .control
  | .pageSelect _ | .colLow | .colHigh => some .command
  | .hdr10 _ _ => some .header
  | .initByte i => some (.init i)
  | .nop | .addrSet _ _ | .addrGet | .convTo7 | .convTo8W | .convTo8R | .convTo10 | .sendCmd _ | .sendData _
  | .initDisplay | .clearDisplay | .fbZero | .setPixel _ _ | .encodePage _ | .decodePage _ _ | .flush
  | .drawLine _ _ _ _ | .triangle _ | .drawFrame _ | .runAnim _ _ | .animStatus | .beginSession | .status
  | .statusClear | .illegal07 _ | .illegal14 _ | .illegal25 _ | .illegal31 _ | .illegal44 _ | .illegal53 _ => none

/-! ### The encoder -/

/-- The bytes of an instruction: of a host command in the order the host sends them (R71, R72), of a wire item in the
order the block emits them (R85 to R91). Only INIT_BYTE's byte depends on `seq`, the block's `INIT_SEQ`. -/
def encode (seq : Vector Byte 27) : Instr → List Byte
  | .nop => [0x00#8]
  | .addrSet t v => 0x01#8 :: t :: u16le v
  | .addrGet => [0x02#8]
  | .convTo7 => [0x03#8]
  | .convTo8W => [0x04#8]
  | .convTo8R => [0x05#8]
  | .convTo10 => [0x06#8]
  | .sendCmd b => [0x10#8, b]
  | .sendData data => 0x11#8 :: (leBytes 2 data.length ++ data)
  | .initDisplay => [0x12#8]
  | .clearDisplay => [0x13#8]
  | .fbZero => [0x20#8]
  | .setPixel x y => 0x21#8 :: (u16le x ++ u16le y)
  | .encodePage p => [0x22#8, p]
  | .decodePage p d => 0x23#8 :: p :: d
  | .flush => [0x24#8]
  | .drawLine x0 y0 x1 y1 => 0x30#8 :: (u16le x0 ++ u16le y0 ++ u16le x1 ++ u16le y1)
  | .triangle idx => 0x40#8 :: u32le idx
  | .drawFrame idx => 0x41#8 :: u32le idx
  | .runAnim duration fps => 0x42#8 :: (f64le duration ++ f64le fps)
  | .animStatus => [0x43#8]
  | .beginSession => [0x50#8]
  | .status => [0x51#8]
  | .statusClear => [0x52#8]
  | .illegal07 op => [op]
  | .illegal14 op => [op]
  | .illegal25 op => [op]
  | .illegal31 op => [op]
  | .illegal44 op => [op]
  | .illegal53 op => [op]
  | .wCmd cmd => [0x00#8, cmd]
  | .wData payload => 0x40#8 :: payload
  | .ctrlByte d => [ctrlByteOf d]
  | .pageSelect p => [pageSelectByte p]
  | .colLow => [0x00#8]
  | .colHigh => [0x10#8]
  | .hdr10 a r => [hdr10Byte a r]
  | .initByte i => [seq.get i]

/-! ### A row of the opcode table as bytes on the port -/

/-- The bytes of a table word: byte 0 is bits 7..0, and zero bytes follow up to the command's own length (R74). -/
def tableBytes (nbits w : Nat) : List Byte :=
  let bs := leBytes (nbits / 8) w
  bs ++ List.replicate (commandLength (bs.getD 0 0) (bs.getD 1 0) (bs.getD 2 0) - bs.length) 0#8

/-- The instruction the HOST port's decoder reads from a table word. A wire row's bytes are read here as what they are
on the host port (log 15). -/
def decodeTableWord (nbits w : Nat) : Option Instr :=
  match decodeHost (tableBytes nbits w) with
  | .command i _ => some i
  | .incomplete => none

end Sys2Proof
end

