-- ==== Sys2Proof/Machine/Params.lean ====
section
/-! DEFINITION. What the spec says of the open parameters of 00_scope.md R10: which `INIT_SEQ` is admissible, and the
default values. The machine takes its parameters from the state, and `State.reset` has them at these defaults (log 4, 5,
6). -/

namespace Sys2Proof

/-- "any admissible `INIT_SEQ` ... contains, in this relative order, the source-literal adjacent pairs `0x81,0x7F` and
`0x8D,0x14`, followed by `0xAF`" (41_command_protocol.md R133); its length 27 is in the type. The invariant of Safety.lean
holds the state's parameter to it (log 4). -/
def Params.Admissible (p : Params) : Prop :=
  ∃ a b c d : List Byte,
    p.initSeq.toList = a ++ [0x81#8, 0x7F#8] ++ b ++ [0x8D#8, 0x14#8] ++ c ++ [0xAF#8] ++ d

/-- The default `INIT_SEQ`: the reconstruction of R133 (log 4). -/
def Config.defaultInitSeq : Vector Byte 27 :=
  #v[0xAE#8, 0x20#8, 0x00#8, 0xB0#8, 0x00#8, 0x10#8, 0x40#8, 0x81#8, 0x7F#8] ++
  #v[0xA1#8, 0xA6#8, 0xA8#8, 0x3F#8, 0xA4#8, 0xD3#8, 0x00#8, 0xD5#8, 0x80#8] ++
  #v[0xD9#8, 0xF1#8, 0xDA#8, 0x12#8, 0xDB#8, 0x40#8, 0x8D#8, 0x14#8, 0xAF#8]

/-- The default `WIDEN8_MODE` (R10, log 5). -/
def Config.defaultWiden8Mode : Widen8Mode := .address

/-- The default `BASE_ANGLE`, +0.0 (R209, log 6). -/
def Config.defaultBaseAngle : F64 := 0#64

/-- Every parameter at its default. -/
def Config.defaults : Params where
  initSeq := defaultInitSeq
  widen8Mode := defaultWiden8Mode
  baseAngle := defaultBaseAngle

end Sys2Proof
end

