-- ==== Sys2Proof/Machine/State.lean ====
section
/-! DEFINITION. The state of the block as plain data (10_state.md R20), the faults and refusals a step can end in, and
the state after reset (70_reset_and_hazards.md R272). -/

namespace Sys2Proof.Machine

/-- The tagged Address value of R21. The payloads hold values outside the source's valid ranges too. -/
inductive Address where
  | sevenBit (a : Byte)
  | eightBitWrite (a : Byte)
  | eightBitRead (a : Byte)
  | tenBit (a : U16)
  deriving DecidableEq, Repr

/-- `STATUS` of R23. -/
structure Status where
  /-- `LAST_OK` -/
  lastOk : Bool
  /-- `FAIL_CNT` -/
  failCnt : U32
  deriving DecidableEq, Repr

/-- `ANIM.STATE` of R24; the fourth code of its two bits is never held. -/
inductive AnimState where
  | idle
  | rendering
  | done
  deriving DecidableEq, Repr

/-- `ANIM` of R24. -/
structure Anim where
  /-- `STATE` -/
  state : AnimState
  /-- `FRAME_INDEX` -/
  index : U32
  /-- `FRAME_COUNT` -/
  count : U32
  /-- `FRAME_DELAY` -/
  delay : F64
  deriving DecidableEq, Repr

/-- The memory: (address, byte) pairs, addresses strictly rising, no byte zero. Address `128 * page + column` is the
byte (page, column) of the frame buffer (R26, R50). An unlisted address reads as 0, the reset contents (log 14). -/
abbrev Memory := List Host.Cell

/-- The kind of a transfer: CMD or DATA (R131). -/
inductive Kind where
  | cmd
  | data
  deriving DecidableEq, Repr

/-- One transfer to issue: its kind and the payload after the control byte (R85, R86). -/
structure Wire where
  kind : Kind
  payload : List Byte
  deriving DecidableEq, Repr

/-- `FRAMER`, the framer FSM (R27, R131). `ctrl` also holds the payload that `start(kind, payload)` handed over
(log 13). -/
inductive Framer where
  | idle
  | ctrl (kind : Kind) (payload : List Byte)
  | payload (kind : Kind) (bytes : List Byte) (k : Nat)
  | wait (bytes : List Byte)
  deriving DecidableEq, Repr

/-- The phase of the animation in `SEQ` (R28). -/
inductive Phase where
  | idle
  | render
  | send
  | pace
  deriving DecidableEq, Repr

/-- The response the command in progress still owes (R76); the model's own field (log 17). -/
inductive Reply where
  /-- nothing is owed -/
  | none
  /-- `[00, ok]`: SEND_CMD, SEND_DATA -/
  | okBit
  /-- `[00, nfail]`: INIT, CLEAR, FLUSH, BEGIN -/
  | nfailByte
  /-- `[00] ++ FRAME_COUNT ++ nfail`: RUN_ANIM -/
  | anim
  /-- a frame already determined: every command that transfers nothing -/
  | frame (bytes : List Byte)
  deriving DecidableEq, Repr

/-- `SEQ`, the micro-sequencer of composite commands (R28). -/
structure Seq where
  /-- the transfers still to issue -/
  pending : List Wire
  phase : Phase
  /-- the pseudocode's local `nfail`; the model's own field (log 17) -/
  nfail : U32
  reply : Reply
  deriving DecidableEq, Repr

/-- `PORT`, the host port (R29). -/
structure Port where
  /-- `RX`: the bytes of an incomplete command -/
  rx : List Byte
  /-- `BUSY` -/
  busy : Bool
  /-- bytes the host has delivered that the block has not taken up (R77); the model's own field (log 9) -/
  incoming : List Byte
  deriving DecidableEq, Repr

/-- The Transport's answers (R39); the model's own field. `queue` holds answers the environment has already fixed, and
past it the answer of draw `n` is the free value `Config.freeOk n` (log 2). -/
structure Transport where
  queue : List Bool
  drawn : Nat
  deriving DecidableEq, Repr

/-- A trace event (R15). -/
inductive Event where
  | xfer (addr : Address) (bytes : List Byte) (ok : Bool)
  | delay (seconds : F64)
  deriving DecidableEq, Repr

/-- The state of the block and what its environment supplies. -/
structure State where
  /-- `ADDR`, R22 -/
  addr : Address
  /-- `STATUS`, R23 -/
  status : Status
  /-- `ANIM`, R24 -/
  anim : Anim
  /-- `FB`, R26 -/
  fb : Memory
  /-- `FRAMER`, R27 -/
  framer : Framer
  /-- `SEQ`, R28 -/
  seq : Seq
  /-- `PORT`, R29 -/
  port : Port
  /-- the trace, R15, oldest event first -/
  trace : List Event
  /-- the response frames emitted, R76, oldest first (log 20) -/
  responses : List (List Byte)
  /-- the Transport's answers, R39 (log 2) -/
  transport : Transport
  /-- the reset signal, R270: `some k` when the host raises it after `k` more micro-steps (log 7) -/
  resetIn : Option Nat
  /-- the parameters of R10 that the block was built with; not the spec's state, and written by nothing (log 27) -/
  params : Params
  deriving DecidableEq, Repr

/-- Why the machine has no step. The five fault CODES of R240 are not here: they are response frames, so their commands
end in a next state. -/
inductive Fault where
  /-- The host has delivered nothing: the block waits for an opcode byte (R273). Raised by `waitForHost`. Safe: the
  hardware waits too. -/
  | portEmpty
  /-- The bytes delivered end inside a command: "it waits for ever and never executes" (R77, R253). Raised by
  `waitForHost`. Safe: the hardware waits too. -/
  | incompleteCommand
  deriving DecidableEq, Repr

/-- Why an instruction has no meaning here. -/
inductive Refusal where
  /-- The instruction has no meaning in this model. Raised by `exec` only. Safe. -/
  | notModelled (mnemonic : String)
  deriving DecidableEq, Repr

/-- `SEQ` "empty and idle" (R28). -/
def Seq.idle : Seq := { pending := [], phase := .idle, nfail := 0, reply := .none }

/-- The block right after reset (R272); the fields R272 does not list are the model's own (log 2, 7, 9, 17,
20, 27). -/
def State.reset : State where
  addr := .sevenBit 0x3C#8
  status := { lastOk := true, failCnt := 0 }
  anim := { state := .idle, index := 0, count := 0, delay := 0 }
  fb := []
  framer := .idle
  seq := Seq.idle
  port := { rx := [], busy := false, incoming := [] }
  trace := []
  responses := []
  transport := { queue := [], drawn := 0 }
  resetIn := none
  params := Config.defaults

/-- The outcome of a step or of one instruction. -/
abbrev Result := Host.Outcome State Fault Refusal

end Sys2Proof.Machine
end

