-- ==== Sys2Proof/Machine/Flags.lean ====
section
/-! DEFINITION. The status bits of the block: `STATUS` (10_state.md R23) and its saturating counter, and the status byte
of a response frame (30_encoding.md R76). No other flag exists (R32). -/

namespace Sys2Proof.Machine

/-- `min(v + n, 0xFFFFFFFF)` on a `u32` (R130, R213). -/
def satAdd32 (v : U32) (n : Nat) : U32 := BitVec.ofNat 32 (min (v.toNat + n) 0xFFFFFFFF)

/-- What one transfer's answer does to `STATUS` (R130). -/
def Status.record (st : Status) (ok : Bool) : Status :=
  { lastOk := ok, failCnt := if ok then st.failCnt else satAdd32 st.failCnt 1 }

/-- `STATUS` as STATUS_CLEAR leaves it (R233). -/
def Status.clear (_ : Status) : Status := { lastOk := true, failCnt := 0 }

/-- A Bool as the byte 0 or 1 (R14). -/
def boolByte (b : Bool) : Byte := if b then 1#8 else 0#8

/-- The five fault codes of R240. -/
inductive FaultCode where
  | illegalOpcode
  | badOperand
  | badPage
  | badTiming
  | frameRange
  deriving DecidableEq, Repr

/-- The status byte of a fault (R76, R240). -/
def FaultCode.byte : FaultCode → Byte
  | .illegalOpcode => 0x01#8
  | .badOperand => 0x02#8
  | .badPage => 0x03#8
  | .badTiming => 0x04#8
  | .frameRange => 0x05#8

/-- The status byte OK (R76). -/
def okByte : Byte := 0x00#8

/-- The code of `ANIM.STATE` (R24). -/
def AnimState.byte : AnimState → Byte
  | .idle => 0#8
  | .rendering => 1#8
  | .done => 2#8

end Sys2Proof.Machine
end

