-- ==== Sys2Proof/Machine/Operands.lean ====
section
/-! DEFINITION. How a meaning reads its operands (30_encoding.md R73) and writes integers back: `i16` coordinates, page
numbers, and the tagged Address (10_state.md R21). -/

namespace Sys2Proof.Machine

/-- An `i16` operand as the mathematical integer it is used as (R73). -/
def coord (v : U16) : Int := v.toInt

/-- An integer as an `i16` result, two's complement, little-endian (R205). -/
def i16le (v : Int) : List Byte := u16le (BitVec.ofInt 16 v)

/-- The number of a page operand. -/
def pageNum (p : Byte) : Nat := p.toNat

/-- The tag of an Address (R21). -/
def Address.tag : Address → Byte
  | .sevenBit _ => 0#8
  | .eightBitWrite _ => 1#8
  | .eightBitRead _ => 2#8
  | .tenBit _ => 3#8

/-- The payload of an Address, zero-extended to 16 bits (R102). -/
def Address.payload : Address → U16
  | .sevenBit a => a.setWidth 16
  | .eightBitWrite a => a.setWidth 16
  | .eightBitRead a => a.setWidth 16
  | .tenBit a => a

/-- The Address that ADDR_SET builds, none where it raises BAD_OPERAND (R101): a tag above 3, or a payload that the
`u8` of an 8-bit variant cannot hold. -/
def addressOf? (tag : Byte) (value : U16) : Option Address :=
  if 3 < tag.toNat then none
  else if tag.toNat = 3 then some (.tenBit value)
  else if 0xFF < value.toNat then none
  else if tag.toNat = 0 then some (.sevenBit (value.setWidth 8))
  else if tag.toNat = 1 then some (.eightBitWrite (value.setWidth 8))
  else some (.eightBitRead (value.setWidth 8))

end Sys2Proof.Machine
end

