-- ==== Sys2Proof/Machine/Ops.lean ====
section
/-! DEFINITION. The operations every meaning is written over: the frame buffer in its two address forms
(20_memory.md R50, R51), the response and the fault (30_encoding.md R76, 60_exceptions.md R241), and the transfer
(41_command_protocol.md R130, R132). -/

namespace Sys2Proof.Machine

/-! ### Memory -/

/-- The canonical form holds of `m` above address `lo`: every address is at least `lo` and below 1024, they rise
strictly, and no byte is the value an unlisted address reads as. -/
def Memory.wfFrom (lo : Nat) : Memory → Bool
  | [] => true
  | (a, b) :: rest => lo ≤ a && a < 1024 && b != 0#8 && Memory.wfFrom (a + 1) rest

/-- The canonical form of the frame buffer's 1024 bytes (R50). -/
def Memory.wf (m : Memory) : Bool := Memory.wfFrom 0 m

/-- The byte at an address; an unlisted address reads as 0. -/
def Memory.readByte : Memory → Nat → Byte
  | [], _ => 0#8
  | (k, b) :: rest, a => if k = a then b else if a < k then 0#8 else Memory.readByte rest a

/-- A cell in front of `rest`, left out when its byte is 0. -/
def Memory.cons (a : Nat) (v : Byte) (rest : Memory) : Memory := if v = 0#8 then rest else (a, v) :: rest

/-- Write one byte, keeping the canonical form. -/
def Memory.writeByte : Memory → Nat → Byte → Memory
  | [], a, v => Memory.cons a v []
  | (k, b) :: rest, a, v =>
    if a < k then Memory.cons a v ((k, b) :: rest)
    else if a = k then Memory.cons a v rest
    else (k, b) :: Memory.writeByte rest a v

/-- The address of byte (page, column) (R50). -/
def pageAddr (page column : Nat) : Nat := 128 * page + column

/-- The address of the byte that pixel (x, y) lies in: page `y >> 3`, column `x` (R51). -/
def pixelAddr (x y : Nat) : Nat := pageAddr (y / 8) x

/-- `FB[y][x]`: bit `y & 7` of its byte (R51). -/
def Memory.pixel (m : Memory) (x y : Nat) : Bool := (m.readByte (pixelAddr x y)).getLsbD (y % 8)

/-- Whether integer coordinates name a pixel: `0 <= x < 128 and 0 <= y < 64` (R161). -/
def onScreen (x y : Int) : Bool := 0 ≤ x && x < 128 && 0 ≤ y && y < 64

/-- `setPixel(x, y)` of R161: sets one pixel, drops a write outside the frame buffer. -/
def Memory.setPixel (m : Memory) (x y : Int) : Memory :=
  if onScreen x y then
    let a := pixelAddr x.toNat y.toNat
    m.writeByte a (m.readByte a ||| (1#8 <<< (y.toNat % 8)))
  else m

/-- Every pixel false (R160). -/
def Memory.zero : Memory := []

/-- One byte of `encodePage(p)`: the OR over bit 0..7 of the pixel at row `8p + bit`, shifted to that bit (R162). -/
def Memory.encodeColumn (m : Memory) (p c : Nat) : Byte :=
  (List.range 8).foldl (fun acc n => acc ||| (boolByte (m.pixel c (p * 8 + n)) <<< n)) 0#8

/-- `encodePage(p)`: 128 bytes, column 0 first (R162). -/
def Memory.encodePage (m : Memory) (p : Nat) : List Byte := (List.range 128).map (m.encodeColumn p)

/-- Write the bytes of a page from column `c` on: bit n of each byte is the pixel at row `8p + n` (R51, R163). -/
def Memory.decodeFrom (p : Nat) : Nat → List Byte → Memory → Memory
  | _, [], m => m
  | c, d :: ds, m => Memory.decodeFrom p (c + 1) ds (m.writeByte (pageAddr p c) d)

/-- DECODE_PAGE's write of one page: its 128 columns from `d`, a missing byte as 0 (log 23). -/
def Memory.decodePage (m : Memory) (p : Nat) (d : List Byte) : Memory :=
  Memory.decodeFrom p 0 ((List.range 128).map fun c => d.getD c 0#8) m

/-! ### Response and fault -/

/-- `Respond(bytes)`: emit the response frame and clear `PORT.BUSY` (R76, R77). -/
def respond (frame : List Byte) (s : State) : State :=
  { s with responses := s.responses ++ [frame], port := { s.port with busy := false } }

/-- `raise Fault(code)`, the block's one exception: it changes no state and answers `[code]` (R241). Nothing is saved,
no handler is entered, and no return from it exists (R245). -/
def raiseFault (code : FaultCode) (s : State) : State := respond [code.byte] s

/-! ### Transfer -/

/-- The next answer of the Transport (R39). -/
def Transport.answer (t : Transport) : Bool :=
  match t.queue with
  | b :: _ => b
  | [] => Config.freeOk t.drawn

/-- The Transport after one answer. -/
def Transport.advance (t : Transport) : Transport := { queue := t.queue.tail, drawn := t.drawn + 1 }

/-- The control byte of a kind of transfer (R87). -/
def Kind.ctrl : Kind → Byte
  | .cmd => ctrlByteOf false
  | .data => ctrlByteOf true

/-- The bytes of a transfer: the control byte, then the payload (R85, R86). -/
def Wire.bytes (w : Wire) : List Byte := w.kind.ctrl :: w.payload

/-- `Transfer(bytes)` of R130, with the answer it returns: one `writeBytes` to the whole of `ADDR`, one event, and
`STATUS`. -/
def transfer (bytes : List Byte) (s : State) : Bool × State :=
  (s.transport.answer,
    { s with
      trace := s.trace ++ [.xfer s.addr bytes s.transport.answer]
      status := s.status.record s.transport.answer
      transport := s.transport.advance })

/-- `sendCommand(b)` (R132). -/
def Wire.command (b : Byte) : Wire := { kind := .cmd, payload := [b] }

/-- `sendData(bs)` (R132). -/
def Wire.sendData (bs : List Byte) : Wire := { kind := .data, payload := bs }

/-- The transfers of a list in order, with `nfail`, the number whose answer was false; a failure never changes what
follows (R138). -/
def sendAll : List Wire → State → Nat × State
  | [], s => (0, s)
  | w :: ws, s =>
    let r := transfer w.bytes s
    let q := sendAll ws r.2
    (q.1 + (if r.1 then 0 else 1), q.2)

/-- A composite command: its transfers, then the response `[00, nfail]` (R134, R135, R164, R231). -/
def sendAndCount (ws : List Wire) (s : State) : State :=
  let r := sendAll ws s
  respond [okByte, BitVec.ofNat 8 r.1] r.2

/-- A primitive transfer, then the response `[00, ok]` (R136, R137). -/
def sendAndReport (w : Wire) (s : State) : State :=
  let r := transfer w.bytes s
  respond [okByte, boolByte r.1] r.2

/-- `Delay(t)`: the trace event (R211). -/
def delayEvent (t : F64) (s : State) : State := { s with trace := s.trace ++ [.delay t] }

end Sys2Proof.Machine
end

