-- ==== Sys2Proof/Machine/Framer.lean ====
section
/-! DEFINITION. The framer's commands (41_command_protocol.md) and the transfer lists that the composite commands issue:
INIT (R134), CLEAR (R135), FLUSH (42_framebuffer.md R164). -/

namespace Sys2Proof.Machine

/-- The transfers of INIT: one command transfer for each byte of INIT_SEQ, in order (R91, R134). -/
def initWires (initSeq : List Byte) : List Wire := initSeq.map Wire.command

/-- The three command transfers before a page's data (R88, R89). -/
def pageHeader (p : Nat) : List Wire :=
  [Wire.command (pageSelectByte (BitVec.ofNat 3 p)), Wire.command 0x00#8, Wire.command 0x10#8]

/-- For each page 0..7, ascending: its header, then its data (R135, R164). -/
def pageWires (data : Nat → List Byte) : List Wire :=
  (List.range 8).flatMap fun p => pageHeader p ++ [Wire.sendData (data p)]

/-- The 32 transfers of CLEAR (R135). -/
def clearWires : List Wire := pageWires fun _ => List.replicate 128 0x00#8

/-- The 32 transfers of FLUSH. No transfer writes FB, so each page is the one at the moment it is sent (R164). -/
def flushWires (fb : Memory) : List Wire := pageWires fb.encodePage

/-- SEND_CMD (R136). -/
def execSendCmd (b : Byte) (s : State) : Result := .next (sendAndReport (Wire.command b) s)

/-- SEND_DATA (R137). -/
def execSendData (data : List Byte) (s : State) : Result := .next (sendAndReport (Wire.sendData data) s)

/-- INIT (R134). -/
def execInitDisplay (s : State) : Result := .next (sendAndCount (initWires s.params.initSeq.toList) s)

/-- CLEAR (R135). -/
def execClearDisplay (s : State) : Result := .next (sendAndCount clearWires s)

end Sys2Proof.Machine
end

