-- ==== Sys2Proof/Machine/Float64.lean ====
section
/-! DEFINITION. IEEE 754 binary64 arithmetic on 64-bit patterns, round-to-nearest-even, no fused operation
(00_scope.md R12, R73; 92 D19). Each operation is computed exactly and rounded once. -/

namespace Sys2Proof

/-- What a pattern denotes: a NaN, an infinity, or `(-1)^neg * m * 2^e`. -/
inductive FVal where
  | nan
  | inf (neg : Bool)
  | fin (neg : Bool) (m : Nat) (e : Int)
  deriving DecidableEq, Repr

/-- The value a pattern denotes. -/
def F64.unpack (x : F64) : FVal :=
  let neg := x.getLsbD 63
  let ex : Nat := (x.toNat / 2 ^ 52) % 2048
  let frac : Nat := x.toNat % 2 ^ 52
  if ex = 2047 then (if frac = 0 then .inf neg else .nan)
  else if ex = 0 then .fin neg frac (-1074)
  else .fin neg (2 ^ 52 + frac) ((ex : Int) - 1075)

/-- The pattern with a sign bit and 63 magnitude bits. -/
def F64.withSign (neg : Bool) (mag : Nat) : F64 := BitVec.ofNat 64 (mag + if neg then 2 ^ 63 else 0)

/-- The infinity of a sign. -/
def F64.infinity (neg : Bool) : F64 := withSign neg (2047 * 2 ^ 52)

/-- The NaN an invalid operation gives (log 18). -/
def F64.nanPattern : F64 := 0x7FF8000000000000#64

/-- `m / 2^k` to the nearest integer, a tie to the even one. -/
def F64.shiftRightEven (m k : Nat) : Nat :=
  let q := m / 2 ^ k
  let r := m % 2 ^ k
  if 2 * r < 2 ^ k then q else if 2 ^ k < 2 * r then q + 1 else if q % 2 = 0 then q else q + 1

/-- The pattern nearest to `(-1)^neg * m * 2^e`, a tie to even; an overflow gives the infinity. -/
def F64.round (neg : Bool) (m : Nat) (e : Int) : F64 :=
  if m = 0 then withSign neg 0
  else
    let q : Int := max ((Nat.log2 m : Int) + e - 52) (-1074)
    let sig := if q ≤ e then m * 2 ^ (e - q).toNat else shiftRightEven m (q - e).toNat
    let mag := (q + 1074).toNat * 2 ^ 52 + sig
    if 2047 * 2 ^ 52 ≤ mag then infinity neg else withSign neg mag

/-- The signed integer significand of a finite value. -/
def F64.signed (neg : Bool) (m : Nat) : Int := if neg then -(m : Int) else (m : Int)

/-- `a + b`. -/
def F64.add (a b : F64) : F64 :=
  match unpack a, unpack b with
  | .nan, _ => nanPattern
  | _, .nan => nanPattern
  | .inf s, .inf t => if s = t then infinity s else nanPattern
  | .inf s, .fin _ _ _ => infinity s
  | .fin _ _ _, .inf t => infinity t
  | .fin s m e, .fin t n f =>
    let g := min e f
    let sum := signed s m * 2 ^ (e - g).toNat + signed t n * 2 ^ (f - g).toNat
    if sum = 0 then withSign (s && t) 0 else round (sum < 0) sum.natAbs g

/-- `-a`: the sign bit flipped. -/
def F64.neg (a : F64) : F64 := a ^^^ 0x8000000000000000#64

/-- `a - b`. -/
def F64.sub (a b : F64) : F64 := add a (neg b)

/-- `a * b`. -/
def F64.mul (a b : F64) : F64 :=
  match unpack a, unpack b with
  | .nan, _ => nanPattern
  | _, .nan => nanPattern
  | .inf s, .inf t => infinity (s != t)
  | .inf s, .fin t n _ => if n = 0 then nanPattern else infinity (s != t)
  | .fin s m _, .inf t => if m = 0 then nanPattern else infinity (s != t)
  | .fin s m e, .fin t n f => round (s != t) (m * n) (e + f)

/-- `a / b`. The quotient is taken to 120 more bits, and a remainder sets one bit below them, so that one rounding of
it is the rounding of the exact quotient. -/
def F64.div (a b : F64) : F64 :=
  match unpack a, unpack b with
  | .nan, _ => nanPattern
  | _, .nan => nanPattern
  | .inf _, .inf _ => nanPattern
  | .inf s, .fin t _ _ => infinity (s != t)
  | .fin s _ _, .inf t => withSign (s != t) 0
  | .fin s m e, .fin t n f =>
    if n = 0 then (if m = 0 then nanPattern else infinity (s != t))
    else
      let num := m * 2 ^ 120
      round (s != t) (2 * (num / n) + if num % n = 0 then 0 else 1) (e - f - 121)

/-- `a > 0.0`: false for a NaN, for zeros and for negatives (R203). -/
def F64.gtZero (a : F64) : Bool :=
  match unpack a with
  | .nan => false
  | .inf s => !s
  | .fin s m _ => !s && m != 0

/-- `floor(a)`, none for a NaN or an infinity (R12). -/
def F64.floor? (a : F64) : Option Int :=
  match unpack a with
  | .nan => none
  | .inf _ => none
  | .fin s m e => some (if 0 ≤ e then signed s m * 2 ^ e.toNat else signed s m / 2 ^ (-e).toNat)

/-- `trunc(a)`, toward zero, none for a NaN or an infinity (R12). -/
def F64.trunc? (a : F64) : Option Int :=
  match unpack a with
  | .nan => none
  | .inf _ => none
  | .fin s m e => some (if 0 ≤ e then signed s m * 2 ^ e.toNat else signed s (m / 2 ^ (-e).toNat))

/-- `trunc(a)`; the free value where the spec states no result (log 19). -/
def F64.trunc (a : F64) : Int := (trunc? a).getD (Config.freeTrunc a)

/-- `f64(i)` of a `u32` (R209). -/
def F64.ofU32 (i : U32) : F64 := round false i.toNat 0

/-- Whether a value lies in [-1, 1]: the limit P_TRIG (R208). -/
def F64.inUnit (a : F64) : Bool :=
  match unpack a with
  | .nan => false
  | .inf _ => false
  | .fin _ m e => if 0 ≤ e then m * 2 ^ e.toNat ≤ 1 else m ≤ 2 ^ (-e).toNat

end Sys2Proof
end

