-- ==== Sys2Proof/Machine/Rasterizer.lean ====
section
/-! DEFINITION. The Bresenham line rasterizer (43_rasterizer.md R180), over mathematical integers. -/

namespace Sys2Proof.Machine

/-- A point in integer pixel coordinates. -/
structure Vertex where
  x : Int
  y : Int
  deriving DecidableEq, Repr

/-- What the loop of R180 keeps fixed: the far endpoint, the distances and the step directions. -/
structure LineSetup where
  x1 : Int
  y1 : Int
  dx : Int
  dy : Int
  sx : Int
  sy : Int
  deriving DecidableEq, Repr

/-- The assignments before the loop of R180. -/
def lineSetup (a b : Vertex) : LineSetup :=
  { x1 := b.x
    y1 := b.y
    dx := (b.x - a.x).natAbs
    dy := -(b.y - a.y).natAbs
    sx := if a.x < b.x then 1 else -1
    sy := if a.y < b.y then 1 else -1 }

/-- The variables that the loop of R180 changes. -/
structure LineState where
  x0 : Int
  y0 : Int
  err : Int
  deriving DecidableEq, Repr

/-- One iteration of R180's loop after the stop test. Both tests use the `e2` computed before either update. -/
def lineNext (c : LineSetup) (p : LineState) : LineState :=
  let e2 := 2 * p.err
  let q : LineState := if e2 ≥ c.dy then { p with err := p.err + c.dy, x0 := p.x0 + c.sx } else p
  if e2 ≤ c.dx then { q with err := q.err + c.dx, y0 := q.y0 + c.sy } else q

/-- The loop of R180: the points it plots, in order. `fuel` bounds the iterations; R182 says how many there are. -/
def lineLoop (c : LineSetup) : Nat → LineState → List Vertex
  | 0, _ => []
  | fuel + 1, p =>
    ⟨p.x0, p.y0⟩ :: if p.x0 = c.x1 ∧ p.y0 = c.y1 then [] else lineLoop c fuel (lineNext c p)

/-- The points that `drawLine` plots, in loop order; their number is that of R182. -/
def linePoints (a b : Vertex) : List Vertex :=
  let c := lineSetup a b
  lineLoop c (max c.dx.toNat (-c.dy).toNat + 1) ⟨a.x, a.y, c.dx + c.dy⟩

/-- `drawLine`: every plotted point goes through `setPixel` (R180, R185). -/
def Memory.drawLine (m : Memory) (a b : Vertex) : Memory :=
  (linePoints a b).foldl (fun fb p => fb.setPixel p.x p.y) m

/-- DRAW_LINE (R180). -/
def execDrawLine (x0 y0 x1 y1 : U16) (s : State) : Result :=
  .next (respond [okByte] { s with fb := s.fb.drawLine ⟨coord x0, coord y0⟩ ⟨coord x1, coord y1⟩ })

end Sys2Proof.Machine
end

