-- ==== Sys2Proof/Machine/Geometry.lean ====
section
/-! DEFINITION. The geometry of the animation (44_animation.md R201, R202, R205, R208, R209) over the constants of
10_state.md R25, with the parameters SIN, COS and BASE_ANGLE of 00_scope.md R10 as arguments. -/

namespace Sys2Proof

open Machine (Vertex)

/-! ### Constants (R25) -/

/-- π, the binary64 value nearest to pi (R12, log 22). -/
def F64.pi : F64 := 0x400921FB54442D18#64

/-- `CX = 64.0` -/
def F64.cx : F64 := F64.ofU32 64

/-- `CY = 32.0` -/
def F64.cy : F64 := F64.ofU32 32

/-- `R = 28.0` -/
def F64.radius : F64 := F64.ofU32 28

/-- `ANGLE_STEP = (2.0 * π) / 180.0` -/
def F64.angleStep : F64 := F64.div (F64.mul (F64.ofU32 2) F64.pi) (F64.ofU32 180)

/-- `THETA0 = -(π / 2.0)` -/
def F64.theta0 : F64 := F64.neg (F64.div F64.pi (F64.ofU32 2))

/-- `OFF150 = (150.0 * π) / 180.0` -/
def F64.off150 : F64 := F64.div (F64.mul (F64.ofU32 150) F64.pi) (F64.ofU32 180)

/-! ### SIN and COS (R10) -/

/-- A configuration function held to P_TRIG: a value outside [-1, 1] is not one it may return, and +0.0 stands for it
(log 3). -/
def F64.limitUnit (v : F64) : F64 := if F64.inUnit v then v else 0#64

/-- `SIN` and `COS`: free values within P_TRIG (R208, log 3). -/
def Config.trig : Trig where
  sin x := F64.limitUnit (Config.freeSin x)
  cos x := F64.limitUnit (Config.freeCos x)

/-! ### The triangle -/

/-- A point in binary64 coordinates. -/
structure Point where
  x : F64
  y : F64
  deriving DecidableEq, Repr

/-- The three vertices, in the order of R201. -/
structure Triangle where
  v0 : Vertex
  v1 : Vertex
  v2 : Vertex
  deriving DecidableEq, Repr

/-- The base vertex at angle `t`: `(CX + R * COS(t), CY + R * SIN(t))` (R201). -/
def basePoint (g : Trig) (t : F64) : Point :=
  { x := F64.add F64.cx (F64.mul F64.radius (g.cos t)), y := F64.add F64.cy (F64.mul F64.radius (g.sin t)) }

/-- The rotation about the centre, left to right as written (R202). -/
def rotate (c s : F64) (b : Point) : Point :=
  { x := F64.add (F64.sub (F64.mul c (F64.sub b.x F64.cx)) (F64.mul s (F64.sub b.y F64.cy))) F64.cx
    y := F64.add (F64.add (F64.mul s (F64.sub b.x F64.cx)) (F64.mul c (F64.sub b.y F64.cy))) F64.cy }

/-- Truncation toward zero (R208). -/
def Point.trunc (p : Point) : Vertex := { x := F64.trunc p.x, y := F64.trunc p.y }

/-- `angle_i = BASE_ANGLE + f64(i) * ANGLE_STEP` (R209). -/
def frameAngle (base : F64) (i : U32) : F64 := F64.add base (F64.mul (F64.ofU32 i) F64.angleStep)

/-- The vertex of frame angle `a` whose base angle is `t`. -/
def frameVertex (g : Trig) (a t : F64) : Vertex := (rotate (g.cos a) (g.sin a) (basePoint g t)).trunc

/-- `tri(i)` of R205. -/
def triangleOf (g : Trig) (base : F64) (i : U32) : Triangle :=
  { v0 := frameVertex g (frameAngle base i) F64.theta0
    v1 := frameVertex g (frameAngle base i) (F64.add F64.theta0 F64.off150)
    v2 := frameVertex g (frameAngle base i) (F64.sub F64.theta0 F64.off150) }

end Sys2Proof
end

