-- ==== Sys2Proof/Machine/Animation.lean ====
section
/-! DEFINITION. The animation sequencer's commands (44_animation.md R203 to R214) in the form of the spec's pseudocode: a
run to completion. Sequencer.lean holds the same run cut into micro-steps. -/

namespace Sys2Proof.Machine

/-- The result bytes of TRIANGLE: six `i16`, little-endian (R205). -/
def triangleBytes (t : Triangle) : List Byte :=
  i16le t.v0.x ++ i16le t.v0.y ++ i16le t.v1.x ++ i16le t.v1.y ++ i16le t.v2.x ++ i16le t.v2.y

/-- The three edges of a triangle on a zero frame buffer, each in the endpoint order of R207. -/
def triangleImage (t : Triangle) : Memory :=
  ((Memory.zero.drawLine t.v0 t.v1).drawLine t.v1 t.v2).drawLine t.v2 t.v0

/-- `renderFrame(i)` (R206): the earlier content of FB is discarded. -/
def renderFrame (g : Trig) (i : U32) (s : State) : State :=
  { s with fb := triangleImage (triangleOf g s.params.baseAngle i) }

/-- The validation and the frame count of R203, in the order of R242. -/
def animSetup (duration fps : F64) : Except FaultCode U32 :=
  if !duration.gtZero then .error .badTiming
  else if !fps.gtZero then .error .badTiming
  else
    match (F64.mul duration fps).floor? with
    | none => .error .frameRange
    | some n => if 0xFFFFFFFF < n then .error .frameRange else .ok (BitVec.ofInt 32 n)

/-- `frameDelay = 1.0 / fps` (R204). -/
def frameDelay (fps : F64) : F64 := F64.div (F64.ofU32 1) fps

/-- `Idle | Done -> Rendering(0)` (R200, R213). -/
def startRun (n : U32) (fps : F64) (s : State) : State :=
  { s with anim := { state := .rendering, index := 0, count := n, delay := frameDelay fps } }

/-- `FRAME_INDEX <- FRAME_INDEX + 1` (R212). -/
def nextFrame (s : State) : State := { s with anim := { s.anim with index := s.anim.index + 1 } }

/-- `STATE <- Done` (R200, R213). -/
def endRun (s : State) : State := { s with anim := { s.anim with state := .done } }

/-- One tick (R210): render, flush, delay, increment; `nfail` saturates. -/
def animTick (g : Trig) (nfail : U32) (s : State) : U32 × State :=
  let s1 := renderFrame g s.anim.index s
  let r := sendAll (flushWires s1.fb) s1
  (satAdd32 nfail r.1, nextFrame (delayEvent r.2.anim.delay r.2))

/-- The loop of R213 over the frames still to render. -/
def animLoop (g : Trig) : Nat → U32 → State → U32 × State
  | 0, nfail, s => (nfail, s)
  | k + 1, nfail, s =>
    let r := animTick g nfail s
    animLoop g k r.1 r.2

/-- RUN_ANIM's run of `n` frames to completion, and its response (R213). -/
def runAnimation (g : Trig) (n : U32) (fps : F64) (s : State) : State :=
  let r := animLoop g n.toNat 0 (startRun n fps s)
  respond (okByte :: (u32le n ++ u32le r.1)) (endRun r.2)

/-- TRIANGLE (R205). -/
def execTriangle (idx : U32) (s : State) : Result :=
  .next (respond (okByte :: triangleBytes (triangleOf Config.trig s.params.baseAngle idx)) s)

/-- DRAW_FRAME (R206). -/
def execDrawFrame (idx : U32) (s : State) : Result :=
  .next (respond [okByte] (renderFrame Config.trig idx s))

/-- RUN_ANIM (R213). -/
def execRunAnim (duration fps : F64) (s : State) : Result :=
  match animSetup duration fps with
  | .error code => .next (raiseFault code s)
  | .ok n => .next (runAnimation Config.trig n fps s)

/-- ANIM_STATUS (R214). -/
def execAnimStatus (s : State) : Result :=
  .next (respond ([okByte, s.anim.state.byte] ++ u32le s.anim.index ++ u32le s.anim.count) s)

end Sys2Proof.Machine
end

