-- ==== Sys2Proof/Machine/FrameBuffer.lean ====
section
/-! DEFINITION. The frame buffer's commands (42_framebuffer.md R160 to R164). -/

namespace Sys2Proof.Machine

/-- FB_ZERO (R160). -/
def execFbZero (s : State) : Result := .next (respond [okByte] { s with fb := Memory.zero })

/-- SET_PIXEL (R161). -/
def execSetPixel (x y : U16) (s : State) : Result :=
  .next (respond [okByte] { s with fb := s.fb.setPixel (coord x) (coord y) })

/-- ENCODE_PAGE (R162). -/
def execEncodePage (page : Byte) (s : State) : Result :=
  if 7 < pageNum page then .next (raiseFault .badPage s)
  else .next (respond (okByte :: s.fb.encodePage (pageNum page)) s)

/-- DECODE_PAGE (R163). -/
def execDecodePage (page : Byte) (d : List Byte) (s : State) : Result :=
  if 7 < pageNum page then .next (raiseFault .badPage s)
  else .next (respond [okByte] { s with fb := s.fb.decodePage (pageNum page) d })

/-- FLUSH (R164). -/
def execFlush (s : State) : Result := .next (sendAndCount (flushWires s.fb) s)

end Sys2Proof.Machine
end

