-- ==== Sys2Proof/Machine/Session.lean ====
section
/-! DEFINITION. The session and housekeeping commands (45_session.md R230 to R233) and the illegal opcodes
(30_encoding.md R78). -/

namespace Sys2Proof.Machine

/-- NOP (R230). -/
def execNop (s : State) : Result := .next (respond [okByte] s)

/-- BEGIN (R231): the transfers of INIT, then those of CLEAR, with one combined `nfail`. -/
def execBeginSession (s : State) : Result := .next (sendAndCount (initWires s.params.initSeq.toList ++ clearWires) s)

/-- STATUS (R232). -/
def execStatus (s : State) : Result :=
  .next (respond ([okByte, boolByte s.status.lastOk] ++ u32le s.status.failCnt) s)

/-- STATUS_CLEAR (R233). -/
def execStatusClear (s : State) : Result := .next (respond [okByte] { s with status := s.status.clear })

/-- An opcode in 0x07..0x0F (R78). -/
def execIllegal07 (_op : Byte) (s : State) : Result := .next (raiseFault .illegalOpcode s)

/-- An opcode in 0x14..0x1F (R78). -/
def execIllegal14 (_op : Byte) (s : State) : Result := .next (raiseFault .illegalOpcode s)

/-- An opcode in 0x25..0x2F (R78). -/
def execIllegal25 (_op : Byte) (s : State) : Result := .next (raiseFault .illegalOpcode s)

/-- An opcode in 0x31..0x3F (R78). -/
def execIllegal31 (_op : Byte) (s : State) : Result := .next (raiseFault .illegalOpcode s)

/-- An opcode in 0x44..0x4F (R78). -/
def execIllegal44 (_op : Byte) (s : State) : Result := .next (raiseFault .illegalOpcode s)

/-- An opcode in 0x53..0xFF (R78). -/
def execIllegal53 (_op : Byte) (s : State) : Result := .next (raiseFault .illegalOpcode s)

end Sys2Proof.Machine
end

