-- ==== Sys2Proof/Machine/Codec.lean ====
section
/-! DEFINITION. The address codec (40_address_codec.md): the address register commands and the four conversions, which
are one pure function of `ADDR` each (R100). -/

namespace Sys2Proof.Machine

/-- A TenBit source converts only when its value is at most 0x3FF (R103 to R106, R108 item 6). -/
def ifTenBit (a : U16) (r : Address) : Option Address := if a.toNat ≤ 0x3FF then some r else none

/-- The two address bits that a 10-bit header carries: bits 9..8 (R90). -/
def headerBits (a : U16) : BitVec 2 := (a >>> 8).setWidth 2

/-- `conv(T7, a)` (R103). -/
def convTo7 : Address → Option Address
  | .sevenBit a => some (.sevenBit a)
  | .eightBitWrite a => some (.sevenBit (a >>> 1))
  | .eightBitRead a => some (.sevenBit (a >>> 1))
  | .tenBit a => ifTenBit a (.sevenBit ((a &&& 0x7F#16).setWidth 8))

/-- `conv(T8W, a)` (R104). -/
def convTo8W : Address → Option Address
  | .sevenBit a => some (.eightBitWrite (a <<< 1))
  | .eightBitWrite a => some (.eightBitWrite (a &&& 0xFE#8))
  | .eightBitRead a => some (.eightBitWrite (a &&& 0xFE#8))
  | .tenBit a => ifTenBit a (.eightBitWrite (hdr10Byte (headerBits a) false))

/-- `conv(T8R, a)` (R105). -/
def convTo8R : Address → Option Address
  | .sevenBit a => some (.eightBitRead ((a <<< 1) ||| 1#8))
  | .eightBitWrite a => some (.eightBitRead (a ||| 1#8))
  | .eightBitRead a => some (.eightBitRead (a ||| 1#8))
  | .tenBit a => ifTenBit a (.eightBitRead (hdr10Byte (headerBits a) true))

/-- `widen8` of R106. -/
def widen8 (mode : Widen8Mode) (a : Byte) : U16 :=
  match mode with
  | .address => (a >>> 1).setWidth 16
  | .raw => a.setWidth 16

/-- `conv(T10, a)` (R106). -/
def convTo10 (mode : Widen8Mode) : Address → Option Address
  | .sevenBit a => some (.tenBit (a.setWidth 16))
  | .eightBitWrite a => some (.tenBit (widen8 mode a))
  | .eightBitRead a => some (.tenBit (widen8 mode a))
  | .tenBit a => ifTenBit a (.tenBit a)

/-- `encode_conv(r, tag)` (R107). -/
def encodeConv (r : Option Address) (tag : Byte) : List Byte :=
  match r with
  | some v => [okByte, 0x00#8, v.tag] ++ u16le v.payload
  | none => [okByte, 0x01#8, tag, 0x00#8, 0x00#8]

/-- ADDR_SET (R101). -/
def execAddrSet (tag : Byte) (value : U16) (s : State) : Result :=
  match addressOf? tag value with
  | none => .next (raiseFault .badOperand s)
  | some a => .next (respond [okByte] { s with addr := a })

/-- ADDR_GET (R102). -/
def execAddrGet (s : State) : Result := .next (respond ([okByte, s.addr.tag] ++ u16le s.addr.payload) s)

/-- CONV_TO7 (R103). -/
def execConvTo7 (s : State) : Result := .next (respond (encodeConv (convTo7 s.addr) 0#8) s)

/-- CONV_TO8W (R104). -/
def execConvTo8W (s : State) : Result := .next (respond (encodeConv (convTo8W s.addr) 1#8) s)

/-- CONV_TO8R (R105). -/
def execConvTo8R (s : State) : Result := .next (respond (encodeConv (convTo8R s.addr) 2#8) s)

/-- CONV_TO10 (R106). -/
def execConvTo10 (s : State) : Result :=
  .next (respond (encodeConv (convTo10 s.params.widen8Mode s.addr) 3#8) s)

end Sys2Proof.Machine
end

