-- ==== Sys2Proof/Machine/WireItems.lean ====
section
/-! DEFINITION. The wire rows of the opcode table as instructions (30_encoding.md R85 to R91): what the block does when it
emits the item. No host command is in progress in them, so none of them answers on the port, but for the header byte,
whose one appearance is a conversion's response (log 11, 12, 13). -/

namespace Sys2Proof.Machine

/-- W_CMD: the transfer `[0x00, cmd]` (R85). -/
def execWCmd (cmd : Byte) (s : State) : Result := .next (transfer (Wire.command cmd).bytes s).2

/-- W_DATA: the transfer `[0x40] ++ payload` (R86). -/
def execWData (payload : List Byte) (s : State) : Result := .next (transfer (Wire.sendData payload).bytes s).2

/-- PAGE_SELECT: the command transfer of `0xB0 | page` (R88). -/
def execPageSelect (p : BitVec 3) (s : State) : Result :=
  .next (transfer (Wire.command (pageSelectByte p)).bytes s).2

/-- COL_LOW: the command transfer of 0x00 (R89). -/
def execColLow (s : State) : Result := .next (transfer (Wire.command 0x00#8).bytes s).2

/-- COL_HIGH: the command transfer of 0x10 (R89). -/
def execColHigh (s : State) : Result := .next (transfer (Wire.command 0x10#8).bytes s).2

/-- INIT_BYTE: the command transfer of `INIT_SEQ[i]` (R91). -/
def execInitByte (i : Fin 27) (s : State) : Result := .next (transfer (Wire.command (s.params.initSeq.get i)).bytes s).2

/-- The kind of a transfer whose control byte has bit 6 as `d` (R87). -/
def kindOf (d : Bool) : Kind := if d then .data else .cmd

/-- The payload of a transfer that has been started and whose control byte is not out yet. -/
def Framer.started : Framer → List Byte
  | .ctrl _ p => p
  | .idle => []
  | .payload _ _ _ => []
  | .wait _ => []

/-- CTRL_BYTE: the edge of R131 that emits the control byte, `F_CTRL(kind) -> F_PAYLOAD(kind, payload, 0)`. The payload
is the started transfer's. DESIGN CHOICE, where R131 has no edge (log 13): a control byte of the other kind keeps the
started payload and the byte's kind becomes the transfer's; where no transfer is started, the control byte starts one
with no payload yet. -/
def execCtrlByte (d : Bool) (s : State) : Result :=
  .next { s with framer := .payload (kindOf d) s.framer.started 0 }

/-- HDR10: the header byte as the value of a conversion's response, in the 8-bit form of its read bit (R90, R107). -/
def execHdr10 (a : BitVec 2) (r : Bool) (s : State) : Result :=
  if r then .next (respond (encodeConv (some (.eightBitRead (hdr10Byte a true))) 2#8) s)
  else .next (respond (encodeConv (some (.eightBitWrite (hdr10Byte a false))) 1#8) s)

end Sys2Proof.Machine
end

