-- ==== Sys2Proof/Machine/Dispatch.lean ====
section
/-! DEFINITION. The meaning of every instruction: one arm per constructor of Instr, one direct call each. -/

namespace Sys2Proof.Machine

def exec (i : Instr) (s : State) : Host.Outcome State Fault Refusal :=
  match i with
  | .nop => Sys2Proof.Machine.execNop s
  -- address codec
  | .addrSet tag value => Sys2Proof.Machine.execAddrSet tag value s
  | .addrGet => Sys2Proof.Machine.execAddrGet s
  | .convTo7 => Sys2Proof.Machine.execConvTo7 s
  | .convTo8W => Sys2Proof.Machine.execConvTo8W s
  | .convTo8R => Sys2Proof.Machine.execConvTo8R s
  | .convTo10 => Sys2Proof.Machine.execConvTo10 s
  -- framer
  | .sendCmd b => Sys2Proof.Machine.execSendCmd b s
  | .sendData data => Sys2Proof.Machine.execSendData data s
  | .initDisplay => Sys2Proof.Machine.execInitDisplay s
  | .clearDisplay => Sys2Proof.Machine.execClearDisplay s
  -- frame buffer
  | .fbZero => Sys2Proof.Machine.execFbZero s
  | .setPixel x y => Sys2Proof.Machine.execSetPixel x y s
  | .encodePage page => Sys2Proof.Machine.execEncodePage page s
  | .decodePage page d => Sys2Proof.Machine.execDecodePage page d s
  | .flush => Sys2Proof.Machine.execFlush s
  -- rasterizer
  | .drawLine x0 y0 x1 y1 => Sys2Proof.Machine.execDrawLine x0 y0 x1 y1 s
  -- animation
  | .triangle idx => Sys2Proof.Machine.execTriangle idx s
  | .drawFrame idx => Sys2Proof.Machine.execDrawFrame idx s
  | .runAnim duration fps => Sys2Proof.Machine.execRunAnim duration fps s
  | .animStatus => Sys2Proof.Machine.execAnimStatus s
  -- session
  | .beginSession => Sys2Proof.Machine.execBeginSession s
  | .status => Sys2Proof.Machine.execStatus s
  | .statusClear => Sys2Proof.Machine.execStatusClear s
  -- illegal opcodes
  | .illegal07 op => Sys2Proof.Machine.execIllegal07 op s
  | .illegal14 op => Sys2Proof.Machine.execIllegal14 op s
  | .illegal25 op => Sys2Proof.Machine.execIllegal25 op s
  | .illegal31 op => Sys2Proof.Machine.execIllegal31 op s
  | .illegal44 op => Sys2Proof.Machine.execIllegal44 op s
  | .illegal53 op => Sys2Proof.Machine.execIllegal53 op s
  -- wire items
  | .wCmd cmd => Sys2Proof.Machine.execWCmd cmd s
  | .wData payload => Sys2Proof.Machine.execWData payload s
  | .ctrlByte d => Sys2Proof.Machine.execCtrlByte d s
  | .pageSelect p => Sys2Proof.Machine.execPageSelect p s
  | .colLow => Sys2Proof.Machine.execColLow s
  | .colHigh => Sys2Proof.Machine.execColHigh s
  | .hdr10 a r => Sys2Proof.Machine.execHdr10 a r s
  | .initByte k => Sys2Proof.Machine.execInitByte k s

end Sys2Proof.Machine
end

