-- ==== Sys2Proof/Machine/Sequencer.lean ====
section
/-! DEFINITION. The block's hidden machinery cut into micro-steps: the framer FSM (41_command_protocol.md R131), the
micro-sequencer `SEQ` (10_state.md R28) and the phases of the animation (44_animation.md R210, R211). A command is
loaded into `SEQ`, and each micro-step performs one edge; a command that transfers nothing is loaded by Port.lean. The
meanings of Framer.lean, FrameBuffer.lean, Session.lean and Animation.lean are the same commands run to completion. -/

namespace Sys2Proof.Machine

/-- One more failed transfer in the command in progress, saturating (R138). -/
def Seq.count (q : Seq) (ok : Bool) : Seq := if ok then q else { q with nfail := satAdd32 q.nfail 1 }

/-- Load a command into the sequencer: the transfers to issue and the response it owes. -/
def loadWires (ws : List Wire) (reply : Reply) (s : State) : State :=
  { s with seq := { pending := ws, phase := .idle, nfail := 0, reply := reply } }

/-- Load a run of `n` frames: `Idle | Done -> Rendering(0)` (R200). -/
def loadRun (n : U32) (fps : F64) (s : State) : State :=
  { startRun n fps s with seq := { pending := [], phase := .render, nfail := 0, reply := .anim } }

/-- The state in which a command that transfers has been taken up and nothing of it has happened yet; none for a
command that transfers nothing. -/
def loadTransfers (i : Instr) (s : State) : Option State :=
  match i with
  | .sendCmd b => some (loadWires [Wire.command b] .okBit s)
  | .sendData data => some (loadWires [Wire.sendData data] .okBit s)
  | .initDisplay => some (loadWires (initWires s.params.initSeq.toList) .nfailByte s)
  | .clearDisplay => some (loadWires clearWires .nfailByte s)
  | .flush => some (loadWires (flushWires s.fb) .nfailByte s)
  | .beginSession => some (loadWires (initWires s.params.initSeq.toList ++ clearWires) .nfailByte s)
  | .runAnim duration fps =>
    match animSetup duration fps with
    | .error _ => none
    | .ok n => some (loadRun n fps s)
  | .nop | .addrSet _ _ | .addrGet | .convTo7 | .convTo8W | .convTo8R | .convTo10 | .fbZero | .setPixel _ _
  | .encodePage _ | .decodePage _ _ | .drawLine _ _ _ _ | .triangle _ | .drawFrame _ | .animStatus | .status
  | .statusClear | .illegal07 _ | .illegal14 _ | .illegal25 _ | .illegal31 _ | .illegal44 _ | .illegal53 _
  | .wCmd _ | .wData _ | .ctrlByte _ | .pageSelect _ | .colLow | .colHigh | .hdr10 _ _ | .initByte _ => none

/-- The response frame that the command in progress owes when nothing of it is left to do (R76). -/
def replyFrame (s : State) : List Byte :=
  match s.seq.reply with
  | .none => [okByte]
  | .okBit => [okByte, boolByte s.status.lastOk]
  | .nfailByte => [okByte, s.seq.nfail.setWidth 8]
  | .anim => okByte :: (u32le s.anim.count ++ u32le s.seq.nfail)
  | .frame bytes => bytes

/-- One action of the sequencer while the framer is idle: the next transfer is started; or the animation goes on by one
phase, the test `FRAME_INDEX = FRAME_COUNT` coming before every tick (R200, R210); or the response is emitted. -/
def seqAction (g : Trig) (s : State) : State :=
  match s.seq.pending with
  | w :: ws => { s with framer := .ctrl w.kind w.payload, seq := { s.seq with pending := ws } }
  | [] =>
    match s.seq.phase with
    | .idle => respond (replyFrame s) { s with seq := Seq.idle }
    | .render =>
      if s.anim.index.toNat < s.anim.count.toNat then
        let s1 := renderFrame g s.anim.index s
        { s1 with seq := { s.seq with pending := flushWires s1.fb, phase := .send } }
      else { endRun s with seq := { s.seq with phase := .idle } }
    | .send => { delayEvent s.anim.delay s with seq := { s.seq with phase := .pace } }
    | .pace => { nextFrame s with seq := { s.seq with phase := .render } }

/-- One micro-step: an edge of the framer FSM (R131), or an action of the sequencer when the framer is idle. -/
def microStepWith (g : Trig) (s : State) : State :=
  match s.framer with
  | .idle => seqAction g s
  | .ctrl kind p => { s with framer := .payload kind p 0 }
  | .payload kind p k =>
    if k < p.length then { s with framer := .payload kind p (k + 1) }
    else { s with framer := .wait (kind.ctrl :: p) }
  | .wait bytes =>
    let r := transfer bytes s
    { r.2 with framer := .idle, seq := s.seq.count r.1 }

/-- One micro-step of the machine. -/
def microStep (s : State) : State := microStepWith Config.trig s

/-- `n` micro-steps. -/
def microRun : Nat → State → State
  | 0, s => s
  | n + 1, s => microRun n (microStep s)

end Sys2Proof.Machine
end

