-- ==== Sys2Proof/Machine/Port.lean ====
section
/-! DEFINITION. The host port (30_encoding.md R77) and reset (70_reset_and_hazards.md R270 to R273): what one step of
the block does around an instruction. -/

namespace Sys2Proof.Machine

/-- What the port finds next: `PORT.RX` and then the bytes that wait. -/
def nextCommand (s : State) : Decoded := decodeHost (s.port.rx ++ s.port.incoming)

/-- A complete command is taken up: its bytes are consumed and `PORT.BUSY` is set (R77). -/
def accept (rest : List Byte) (s : State) : State :=
  { s with port := { rx := [], busy := true, incoming := rest } }

/-- The bytes of an incomplete command go into `PORT.RX` (R29). -/
def receive (s : State) : State :=
  { s with port := { s.port with rx := s.port.rx ++ s.port.incoming, incoming := [] } }

/-- No complete command has arrived: the bytes that have are received, and with none left to receive the block has no
step (R77, R253 item 1; log 8). -/
def waitForHost (s : State) : Result :=
  if s.port.incoming ≠ [] then .next (receive s)
  else if s.port.rx = [] then .fault .portEmpty
  else .fault .incompleteCommand

/-- One host command, from its bytes on the port to its response. -/
def runCommand (s : State) : Result :=
  match nextCommand s with
  | .command i rest => exec i (accept rest s)
  | .incomplete => waitForHost s

/-- Reset (R270 to R272): the block's state takes its reset values and a new observation starts. The agents outside
are not reset: the host's bytes not yet taken up and the Transport's answers stay (log 7), and the parameters the block
was built with stay (log 27). DESIGN CHOICE: the answer to a `writeBytes` call that reset abandons in `F_WAIT` does not
count as drawn, so the next transfer gets it (log 28). -/
def takeReset (s : State) : State :=
  { State.reset with
    port := { State.reset.port with incoming := s.port.incoming }
    transport := s.transport
    params := s.params }

/-- `t`, what a command without transfers made of `s`, before its response frame is out: the frame is owed, and the port
is as it was (R58 item 1, R77). -/
def owing (s t : State) : State :=
  { t with
    responses := s.responses
    port := s.port
    seq := { s.seq with reply := .frame (t.responses.getLast?.getD []) } }

/-- A command taken up into the sequencer with its response still owed. One that transfers has its transfers before it;
the memory effects of one that does not are complete, and nothing but the response is left (R58 item 1, log 24). -/
def loadCommand (i : Instr) (s : State) : Result :=
  match loadTransfers i s with
  | some t => .next t
  | none =>
    match exec i s with
    | .next t => .next (owing s t)
    | .fault f => .fault f
    | .refused r => .refused r

/-- One micro-step of a block that a reset will reach: a command is loaded and then advances by one micro-step at a time,
so that the reset can fall inside it, its response not yet out (R271); time passes while nothing is on the port. -/
def microCycle (s : State) : Result :=
  if s.port.busy then .next (microStep s)
  else
    match nextCommand s with
    | .command i rest => loadCommand i (accept rest s)
    | .incomplete => if s.port.incoming ≠ [] then .next (receive s) else .next s

/-- One step of the block. Reset wins over everything (R244); a command in progress goes on (R40, R77); else the next
command is run. -/
def cycle (s : State) : Result :=
  match s.resetIn with
  | some 0 => .next (takeReset s)
  | some (k + 1) => microCycle { s with resetIn := some k }
  | none => if s.port.busy then .next (microStep s) else runCommand s

/-- The port as the host leaves it after delivering `bs` to a block that waits for an opcode, with no reset due. -/
def deliver (bs : List Byte) (s : State) : State :=
  { s with port := { rx := [], busy := false, incoming := bs }, resetIn := none }

end Sys2Proof.Machine
end

