-- ==== Sys2Proof/Machine/Step.lean ====
section
/-! DEFINITION. One step of the machine, and a command placed where the next step takes it up. -/

namespace Sys2Proof.Machine

/-- One step: `cycle` of Port.lean. -/
def step (s : State) : Host.Outcome State Fault Refusal := cycle s

/-- The command whose table word is `w`, delivered on the host port, so that the next step runs it (log 10). -/
def State.withFetchWord (s : State) (nbits w : Nat) : State := deliver (tableBytes nbits w) s

end Sys2Proof.Machine
end

