-- ==== Sys2Proof/Safety.lean ====
section
/-! DEFINITION. What holds of the block in every state it can be in, and what a safe run is: one whose only stop is
waiting for the host. Before them, the terms claims are stated in: the number a binary64 pattern denotes and rounding to
it, a response, and a list of transfers, each as the state it leaves. -/

namespace Sys2Proof

/-- The number a binary64 pattern denotes, none for an infinity or a NaN: sign bit 63, exponent field bits 62..52, fraction
bits 51..0 (IEEE 754; R12, R14, R73). -/
def F64.value? (x : F64) : Option ℚ :=
  let sign : ℚ := if x.msb then -1 else 1
  let ex : Nat := x.toNat / 2 ^ 52 % 2048
  let frac : Nat := x.toNat % 2 ^ 52
  if ex = 2047 then none
  else if ex = 0 then some (sign * frac * (2 : ℚ) ^ (-1074 : Int))
  else some (sign * (2 ^ 52 + frac : Nat) * (2 : ℚ) ^ ((ex : Int) - 1075))

/-- +infinity. -/
def F64.plusInf : F64 := 0x7FF0000000000000#64

/-- `p` is the number `v` rounded to nearest, a tie to the pattern whose last bit is 0; from half a step past the greatest
finite number on, it is the infinity of `v`'s sign (R12). -/
def F64.IsNearest (p : F64) (v : ℚ) : Prop :=
  match F64.value? p with
  | some r =>
    |v| < 2 ^ 1024 - 2 ^ 970 ∧
      ∀ (q : F64) (w : ℚ), F64.value? q = some w →
        |r - v| ≤ |w - v| ∧ (|r - v| = |w - v| → w ≠ r → p.getLsbD 0 = false)
  | none => 2 ^ 1024 - 2 ^ 970 ≤ |v| ∧ p = if v < 0 then 0xFFF0000000000000#64 else F64.plusInf

end Sys2Proof

namespace Sys2Proof.Machine

/-- `s` after one response frame: the frame is on the response channel and `PORT.BUSY` is clear (R76, R77). -/
def State.answered (s : State) (frame : List Byte) : State :=
  { s with responses := s.responses ++ [frame], port := { s.port with busy := false } }

/-- The answer the Transport gives to transfer number `k` from now on, counting from 0 (R39). -/
def Transport.answerAt (t : Transport) (k : Nat) : Bool := (t.queue[k]?).getD (Config.freeOk (t.drawn + k))

/-- The next `n` answers. -/
def Transport.answers (t : Transport) (n : Nat) : List Bool := (List.range n).map t.answerAt

/-- The Transport after `n` answers. -/
def Transport.after (t : Transport) (n : Nat) : Transport :=
  { queue := t.queue.drop n, drawn := t.drawn + n }

/-- `STATUS` after a list of answers: the last one, and the failures counted, saturating (R23, R130). -/
def Status.after (st : Status) (oks : List Bool) : Status :=
  { lastOk := oks.getLast?.getD st.lastOk
    failCnt := BitVec.ofNat 32 (min (st.failCnt.toNat + oks.count false) 0xFFFFFFFF) }

/-- The events of transfers to `a`: the byte lists with their answers (R15, R130). -/
def xferEvents (a : Address) (byteLists : List (List Byte)) (oks : List Bool) : List Event :=
  List.zipWith (fun bs ok => .xfer a bs ok) byteLists oks

/-- `s` after the transfers of a list of byte lists, in order: one event each, to the whole of `ADDR`, `STATUS`, and
nothing else (R130, R58). -/
def State.sent (s : State) (byteLists : List (List Byte)) : State :=
  let oks := s.transport.answers byteLists.length
  { s with
    trace := s.trace ++ xferEvents s.addr byteLists oks
    status := s.status.after oks
    transport := s.transport.after byteLists.length }

/-- The number of the next `n` transfers that will fail. -/
def State.failures (s : State) (n : Nat) : Nat := (s.transport.answers n).count false

/-- The four bytes of a `u32` result, least significant first (R52). -/
def le32 (v : U32) : List Byte :=
  [v.setWidth 8, (v >>> 8).setWidth 8, (v >>> 16).setWidth 8, (v >>> 24).setWidth 8]

/-- The two bytes of a `u16` operand, or of the pattern of an `i16` one (R73). -/
def leHalf (v : U16) : List Byte := [v.setWidth 8, (v >>> 8).setWidth 8]

/-- The eight bytes of an `f64` operand (R73). -/
def le64 (v : F64) : List Byte := le32 (v.setWidth 32) ++ le32 ((v >>> 32).setWidth 32)

/-- The two bytes of an `i16` result, two's complement, least significant first (R52, R205). -/
def le16 (v : Int) : List Byte := [BitVec.ofInt 8 v, BitVec.ofInt 8 (v / 256)]

/-- An event without the Transport's answer: what the block itself decides. -/
def Event.unanswered : Event → Event
  | .xfer a bs _ => .xfer a bs true
  | .delay t => .delay t

/-- The byte lists of the transfers that precede and carry each page 0..7: `B0|p`, `00`, `10`, then the data (R88,
R135, R164). -/
def pageTransfers (data : Nat → List Byte) : List (List Byte) :=
  (List.range 8).flatMap fun p =>
    [[0x00#8, BitVec.ofNat 8 (0xB0 + p)], [0x00#8, 0x00#8], [0x00#8, 0x10#8], 0x40#8 :: data p]

/-- The commands that issue transfers: the rows of R34 with an entry under `trace`. -/
def isSending : Instr → Bool
  | .sendCmd _ | .sendData _ | .initDisplay | .clearDisplay | .flush | .beginSession | .runAnim _ _ => true
  | _ => false

/-- The commands that write FB: the rows of R34 with a `w` under `FB`. -/
def isDrawing : Instr → Bool
  | .fbZero | .setPixel _ _ | .decodePage _ _ | .drawLine _ _ _ _ | .drawFrame _ | .runAnim _ _ => true
  | _ => false

/-- R180's loop as a relation: from `(x, y)` with error `err` it plots `ps` and stops. The updates are those of the
pseudocode, one after the other. -/
inductive BresenhamRun (x1 y1 dx dy sx sy : Int) : Int → Int → Int → List Vertex → Prop where
  | stop (err : Int) : BresenhamRun x1 y1 dx dy sx sy x1 y1 err [⟨x1, y1⟩]
  | next (x y err e1 x' e' y' : Int) (ps : List Vertex) :
      ¬(x = x1 ∧ y = y1) →
      (x', e1) = (if dy ≤ 2 * err then (x + sx, err + dy) else (x, err)) →
      (y', e') = (if 2 * err ≤ dx then (y + sy, e1 + dx) else (y, e1)) →
      BresenhamRun x1 y1 dx dy sx sy x' y' e' ps →
      BresenhamRun x1 y1 dx dy sx sy x y err (⟨x, y⟩ :: ps)

/-- The invariant of the block, kept by every step and met by the reset state. -/
structure State.Inv (s : State) : Prop where
  /-- the block was built with an admissible `INIT_SEQ` (R133) -/
  admissible : s.params.Admissible
  /-- the frame buffer is in its canonical form -/
  memWf : s.fb.wf = true
  /-- "`FRAME_INDEX ≤ FRAME_COUNT`" (R212) -/
  indexLe : s.anim.index.toNat ≤ s.anim.count.toNat
  /-- an animation that never ran has its reset values (R24) -/
  idleZero : s.anim.state = .idle → s.anim.index = 0 ∧ s.anim.count = 0 ∧ s.anim.delay = 0
  /-- "`STATE = Done`, `FRAME_INDEX = FRAME_COUNT`" (R24) -/
  doneAll : s.anim.state = .done → s.anim.index = s.anim.count
  /-- a failed last transfer has been counted (R23, R130) -/
  failSeen : s.status.lastOk = false → s.status.failCnt ≠ 0
  /-- between commands the framer and the sequencer are idle (R27, R28, R77) -/
  quiet : s.port.busy = false → s.framer = .idle ∧ s.seq = Seq.idle
  /-- the animation is `Rendering` exactly while the sequencer is in one of its phases (R200, R28) -/
  running : s.anim.state = .rendering ↔ s.seq.phase ≠ .idle
  /-- a frame is being sent or paced only while frames are left (R210) -/
  framesLeft : s.seq.phase = .send ∨ s.seq.phase = .pace → s.anim.index.toNat < s.anim.count.toNat
  /-- no transfer is left to issue, or under way, before a frame is rendered and in its hold (R58 item 4) -/
  noOverlap : s.seq.phase = .render ∨ s.seq.phase = .pace → s.seq.pending = [] ∧ s.framer = .idle

/-- The block waits for the host: no reset is due, no command is in progress, every byte delivered has been received,
and the bytes received are not a whole command (R77, R253 item 1). -/
def State.Waiting (s : State) : Prop :=
  s.resetIn = none ∧ s.port.busy = false ∧ s.port.incoming = [] ∧ decodeHost s.port.rx = .incomplete

/-- A state from which the block's step is a safe one: it answers a next state, or the block waits. -/
def State.SafeStep (s : State) : Prop := (∃ t, step s = .next t) ∨ s.Waiting

end Sys2Proof.Machine
end

