-- ==== Sys2Proof/Certificates/Slice0/Obligations.lean ====
section
/-! DEFINITION. The statements for the provers. A statement whose conclusion is `exec i s = .next t` with `t` written out
is the instruction's completion, its result and its frame at once: every field of the state that `t` does not name is
that of `s`. -/

open Sys2Proof Sys2Proof.Machine

/-! ### Reset and the whole machine -/

/-- R272, R20: the reset values. -/
def Obligations.ResetStateAsListed : Prop :=
  State.reset.addr = .sevenBit 0x3C#8 ∧
  State.reset.status.lastOk = true ∧ State.reset.status.failCnt = 0#32 ∧
  State.reset.anim.state = .idle ∧ State.reset.anim.index = 0#32 ∧ State.reset.anim.count = 0#32 ∧
  State.reset.anim.delay = 0#64 ∧
  (∀ x y : Nat, x < 128 → y < 64 → State.reset.fb.pixel x y = false) ∧
  State.reset.framer = .idle ∧ State.reset.seq.pending = [] ∧ State.reset.seq.phase = .idle ∧
  State.reset.port.rx = [] ∧ State.reset.port.busy = false ∧ State.reset.trace = []

/-- The invariant of Safety.lean holds at reset. -/
def Obligations.ResetMeetsInvariant : Prop := State.reset.Inv

/-- The invariant of Safety.lean is kept by every step, in micro-steps as well as in whole commands. -/
def Obligations.StepKeepsInvariant : Prop := ∀ s t : State, s.Inv → step s = .next t → t.Inv

/-- R270, R271, R244: reset, whether or not a command is in progress; and any command, one without transfers included,
that was taken up in the micro-step before is abandoned with no response and no transfer. That the host's untaken bytes,
the Transport and the parameters stay, and that the response channel starts empty, is the model's choice (log 7, log 20,
log 27, log 28); that a command is loaded before it answers is the model's cut (log 24). -/
def Obligations.ResetWinsOverCommandInProgress : Prop :=
  (∀ s : State, s.resetIn = some 0 →
    step s = .next { State.reset with
      port := { rx := [], busy := false, incoming := s.port.incoming }
      transport := s.transport
      params := s.params }) ∧
  ∀ (s : State) (i : Instr) (rest : List Byte),
    s.resetIn = some 1 → s.port.busy = false →
    decodeHost (s.port.rx ++ s.port.incoming) = .command i rest →
    ∃ l : State, step s = .next l ∧ l.port.busy = true ∧ l.responses = s.responses ∧ l.trace = s.trace ∧
      step l = .next { State.reset with
        port := { rx := [], busy := false, incoming := rest }
        transport := s.transport
        params := s.params }

/-- R270, R271: a reset that is due arrives, whatever the block does meanwhile; nothing stops the machine before it. That
it is due after a number of micro-steps is the model's form (log 7), and that the response list starts anew with the
trace is the model's choice (log 20). -/
def Obligations.DueResetArrives : Prop :=
  ∀ (k : Nat) (s : State), s.resetIn = some k →
    ∃ t, Host.Core.run Sys2Proof.core (k + 1) s = .next t ∧
      t.addr = .sevenBit 0x3C#8 ∧ t.status = ⟨true, 0⟩ ∧ t.anim = ⟨.idle, 0, 0, 0⟩ ∧ t.fb = [] ∧
      t.framer = .idle ∧ t.seq = Seq.idle ∧ t.port.rx = [] ∧ t.port.busy = false ∧ t.trace = [] ∧
      t.responses = [] ∧ t.resetIn = none

/-- The only stop of the machine is waiting for the host (R77, R253, R273; that a wait is a named fault is log 8). -/
def Obligations.MachineStopsOnlyWhileWaiting : Prop :=
  ∀ s : State, (∃ t, step s = .next t) ∨
    (s.Waiting ∧
      ((s.port.rx = [] ∧ step s = .fault .portEmpty) ∨ (s.port.rx ≠ [] ∧ step s = .fault .incompleteCommand)))

/-- R77: what the port does with the bytes of a command that is not complete. -/
def Obligations.IncompleteCommandNeverRuns : Prop :=
  ∀ s : State, s.resetIn = none → s.port.busy = false →
    decodeHost (s.port.rx ++ s.port.incoming) = .incomplete →
    (s.port.incoming ≠ [] →
      step s = .next { s with port := { s.port with rx := s.port.rx ++ s.port.incoming, incoming := [] } }) ∧
    (s.port.incoming = [] → ∃ r, step s = .fault r)

/-- R77: a complete command at the port is consumed, `PORT.BUSY` is set, and the step is its `exec`. -/
def Obligations.StepRunsDecodedCommand : Prop :=
  ∀ (s : State) (i : Instr) (rest : List Byte),
    s.resetIn = none → s.port.busy = false →
    decodeHost (s.port.rx ++ s.port.incoming) = .command i rest →
    step s = exec i { s with port := { rx := [], busy := true, incoming := rest } }

/-! ### Encodings -/

/-- R70 to R73, R78: decoding an encoded well-formed host command gives it back, with the bytes after it. -/
def Obligations.DecodeOfEncodeIsTheCommand : Prop :=
  ∀ (seq : Vector Byte 27) (i : Instr) (rest : List Byte), i.isHost = true → i.wf = true →
    decodeHost (encode seq i ++ rest) = .command i rest

/-- The other direction: what the host decoder reads is well-formed, and its encoding is the bytes it was read from. -/
def Obligations.EncodeOfDecodeIsTheBytes : Prop :=
  ∀ (seq : Vector Byte 27) (bs rest : List Byte) (i : Instr), decodeHost bs = .command i rest →
    bs = encode seq i ++ rest ∧ i.wf = true ∧ i.isHost = true

/-- R85 to R91: each wire item is read back at the place where the block emits it, whatever `INIT_SEQ` is. -/
def Obligations.WireDecodeOfEncodeIsTheItem : Prop :=
  ∀ (seq : Vector Byte 27) (i : Instr) (p : WirePlace), i.wf = true → i.place? = some p →
    decodeWire seq p (encode seq i) = some i

/-- R74: a command is complete exactly when as many bytes have arrived as its first three bytes say, and it takes that
many. -/
def Obligations.DecoderTakesTheRuleLength : Prop :=
  (∀ op lo hi : Byte, commandLength op lo hi =
    if op = 0x10#8 ∨ op = 0x22#8 then 2
    else if op = 0x01#8 then 4
    else if op = 0x11#8 then 3 + (lo.toNat + 256 * hi.toNat)
    else if op = 0x23#8 then 130
    else if op = 0x21#8 ∨ op = 0x40#8 ∨ op = 0x41#8 then 5
    else if op = 0x30#8 then 9
    else if op = 0x42#8 then 17
    else 1) ∧
  ∀ (op : Byte) (bs : List Byte),
    (commandLength op (bs.getD 0 0) (bs.getD 1 0) ≤ bs.length + 1 ↔ decodeHost (op :: bs) ≠ .incomplete) ∧
    (∀ (i : Instr) (rest : List Byte), decodeHost (op :: bs) = .command i rest →
      rest = (op :: bs).drop (commandLength op (bs.getD 0 0) (bs.getD 1 0)))

/-- R78: an opcode of the six ranges is consumed alone, changes nothing and is answered `[01]`; every opcode outside
them is in the map of R71. -/
def Obligations.IllegalOpcodeIsConsumedAlone : Prop :=
  ∀ op : Byte,
    (opRow? op = none ↔
      opIn 0x07 0x0F op ∨ opIn 0x14 0x1F op ∨ opIn 0x25 0x2F op ∨ opIn 0x31 0x3F op ∨ opIn 0x44 0x4F op ∨
        opIn 0x53 0xFF op) ∧
    (opRow? op = none → ∀ rest : List Byte, ∃ i, decodeHost (op :: rest) = .command i rest ∧
      ∀ s : State, exec i s = .next (s.answered [0x01#8])) ∧
    (∀ s : State,
      exec (.illegal07 op) s = .next (s.answered [0x01#8]) ∧ exec (.illegal14 op) s = .next (s.answered [0x01#8]) ∧
      exec (.illegal25 op) s = .next (s.answered [0x01#8]) ∧ exec (.illegal31 op) s = .next (s.answered [0x01#8]) ∧
      exec (.illegal44 op) s = .next (s.answered [0x01#8]) ∧ exec (.illegal53 op) s = .next (s.answered [0x01#8]))

/-- Commands written out from R71 and R72, with the listings of R75 and 95_test_vectors.md. -/
def Obligations.ListedCommandBytesDecode : Prop :=
  decodeHost [0x21#8, 0x05#8, 0x00#8, 0x03#8, 0x00#8] = .command (.setPixel 5#16 3#16) [] ∧
  decodeHost [0x01#8, 0x03#8, 0xA5#8, 0x02#8, 0x04#8] = .command (.addrSet 3#8 0x2A5#16) [0x04#8] ∧
  decodeHost [0x11#8, 0x02#8, 0x00#8, 0x01#8, 0xFF#8] = .command (.sendData [0x01#8, 0xFF#8]) [] ∧
  decodeHost [0x30#8, 0#8, 0#8, 0#8, 0#8, 3#8, 0#8, 3#8, 0#8] = .command (.drawLine 0#16 0#16 3#16 3#16) [] ∧
  decodeHost [0x42#8, 0#8, 0#8, 0#8, 0#8, 0#8, 0#8, 0#8, 0x40#8, 0#8, 0#8, 0#8, 0#8, 0#8, 0#8, 0x24#8, 0x40#8] =
    .command (.runAnim 0x4000000000000000#64 0x4024000000000000#64) [] ∧
  decodeHost [0x07#8, 0x00#8] = .command (.illegal07 0x07#8) [0x00#8]

/-! ### Responses and faults -/

/-- R76: every host command emits exactly one response frame, whose status byte is 0 to 5, with result bytes only after
status OK, and leaves the port not busy. -/
def Obligations.EveryCommandAnswersOnce : Prop :=
  ∀ (i : Instr) (s t : State), i.isHost = true → exec i s = .next t →
    ∃ (code : Byte) (result : List Byte),
      t.responses = s.responses ++ [code :: result] ∧ code.toNat ≤ 5 ∧ (code ≠ 0x00#8 → result = []) ∧
      t.port.busy = false

/-- R241: a command whose status is not OK has changed nothing but the response channel and `PORT.BUSY`. -/
def Obligations.FaultsArePrecise : Prop :=
  ∀ (i : Instr) (s t : State) (code : Byte), i.isHost = true → exec i s = .next t →
    code ≠ 0x00#8 → t.responses = s.responses ++ [[code]] → t = s.answered [code]

/-! ### Session -/

/-- R230: NOP. -/
def Obligations.NopOnlyAnswers : Prop :=
  (∀ rest : List Byte, decodeHost (0x00#8 :: rest) = .command .nop rest) ∧
  ∀ s : State, exec .nop s = .next (s.answered [0x00#8])

/-- R232, R233: STATUS and STATUS_CLEAR. -/
def Obligations.StatusIsReportedAndCleared : Prop :=
  (∀ rest : List Byte, decodeHost (0x51#8 :: rest) = .command .status rest ∧
    decodeHost (0x52#8 :: rest) = .command .statusClear rest) ∧
  ∀ s : State,
    exec .status s =
      .next (s.answered ([0x00#8, if s.status.lastOk then 0x01#8 else 0x00#8] ++ le32 s.status.failCnt)) ∧
    exec .statusClear s =
      .next (({ s with status := { lastOk := true, failCnt := 0#32 } } : State).answered [0x00#8])

/-! ### Address codec -/

/-- R101: ADDR_SET, in the order of its two checks. -/
def Obligations.AddrSetStoresOrFaults : Prop :=
  (∀ (tag : Byte) (value : U16) (rest : List Byte),
    decodeHost ([0x01#8, tag] ++ leHalf value ++ rest) = .command (.addrSet tag value) rest) ∧
  ∀ (tag : Byte) (value : U16) (s : State),
    exec (.addrSet tag value) s = .next
      (if 3 < tag.toNat then s.answered [0x02#8]
      else if tag.toNat ≤ 2 ∧ 0xFF < value.toNat then s.answered [0x02#8]
      else
        ({ s with
          addr :=
            match tag.toNat with
            | 0 => .sevenBit (BitVec.ofNat 8 value.toNat)
            | 1 => .eightBitWrite (BitVec.ofNat 8 value.toNat)
            | 2 => .eightBitRead (BitVec.ofNat 8 value.toNat)
            | _ => .tenBit value } : State).answered [0x00#8])

/-- R102: ADDR_GET. -/
def Obligations.AddrGetReadsAddr : Prop :=
  (∀ rest : List Byte, decodeHost (0x02#8 :: rest) = .command .addrGet rest) ∧
  ∀ s : State, exec .addrGet s = .next (s.answered
    (match s.addr with
    | .sevenBit a => [0x00#8, 0#8, a, 0#8]
    | .eightBitWrite a => [0x00#8, 1#8, a, 0#8]
    | .eightBitRead a => [0x00#8, 2#8, a, 0#8]
    | .tenBit a => [0x00#8, 3#8, BitVec.ofNat 8 a.toNat, BitVec.ofNat 8 (a.toNat / 256)]))

/-- R103, R107: CONV_TO7. -/
def Obligations.ConvToSevenBitResult : Prop :=
  (∀ rest : List Byte, decodeHost (0x03#8 :: rest) = .command .convTo7 rest) ∧
  ∀ s : State, exec .convTo7 s = .next (s.answered
    (match s.addr with
    | .sevenBit a => [0x00#8, 0x00#8, 0#8, a, 0#8]
    | .eightBitWrite a => [0x00#8, 0x00#8, 0#8, BitVec.ofNat 8 (a.toNat / 2), 0#8]
    | .eightBitRead a => [0x00#8, 0x00#8, 0#8, BitVec.ofNat 8 (a.toNat / 2), 0#8]
    | .tenBit a =>
      if a.toNat ≤ 0x3FF then [0x00#8, 0x00#8, 0#8, BitVec.ofNat 8 (a.toNat % 128), 0#8]
      else [0x00#8, 0x01#8, 0#8, 0#8, 0#8]))

/-- R104, R107, R90: CONV_TO8W. -/
def Obligations.ConvToWriteFormResult : Prop :=
  (∀ rest : List Byte, decodeHost (0x04#8 :: rest) = .command .convTo8W rest) ∧
  ∀ s : State, exec .convTo8W s = .next (s.answered
    (match s.addr with
    | .sevenBit a => [0x00#8, 0x00#8, 1#8, BitVec.ofNat 8 (2 * a.toNat), 0#8]
    | .eightBitWrite a => [0x00#8, 0x00#8, 1#8, BitVec.ofNat 8 (2 * (a.toNat / 2)), 0#8]
    | .eightBitRead a => [0x00#8, 0x00#8, 1#8, BitVec.ofNat 8 (2 * (a.toNat / 2)), 0#8]
    | .tenBit a =>
      if a.toNat ≤ 0x3FF then
        [0x00#8, 0x00#8, 1#8, BitVec.ofNat 8 (0xF0 ||| ((a.toNat >>> 7) &&& 0x06)), 0#8]
      else [0x00#8, 0x01#8, 1#8, 0#8, 0#8]))

/-- R105, R107, R90: CONV_TO8R. -/
def Obligations.ConvToReadFormResult : Prop :=
  (∀ rest : List Byte, decodeHost (0x05#8 :: rest) = .command .convTo8R rest) ∧
  ∀ s : State, exec .convTo8R s = .next (s.answered
    (match s.addr with
    | .sevenBit a => [0x00#8, 0x00#8, 2#8, BitVec.ofNat 8 (2 * a.toNat + 1), 0#8]
    | .eightBitWrite a => [0x00#8, 0x00#8, 2#8, BitVec.ofNat 8 (2 * (a.toNat / 2) + 1), 0#8]
    | .eightBitRead a => [0x00#8, 0x00#8, 2#8, BitVec.ofNat 8 (2 * (a.toNat / 2) + 1), 0#8]
    | .tenBit a =>
      if a.toNat ≤ 0x3FF then
        [0x00#8, 0x00#8, 2#8, BitVec.ofNat 8 (0xF0 ||| ((a.toNat >>> 7) &&& 0x06) ||| 0x01), 0#8]
      else [0x00#8, 0x01#8, 2#8, 0#8, 0#8]))

/-- R106, R107: CONV_TO10, at either value of WIDEN8_MODE. -/
def Obligations.ConvToTenBitResult : Prop :=
  (∀ rest : List Byte, decodeHost (0x06#8 :: rest) = .command .convTo10 rest) ∧
  (∀ s : State, exec .convTo10 s = .next (s.answered (encodeConv (convTo10 s.params.widen8Mode s.addr) 3#8))) ∧
  ∀ (mode : Widen8Mode) (x : Address),
    encodeConv (convTo10 mode x) 3#8 =
      match x with
      | .sevenBit a => [0x00#8, 0x00#8, 3#8, a, 0#8]
      | .eightBitWrite a =>
        [0x00#8, 0x00#8, 3#8, (if mode = .address then BitVec.ofNat 8 (a.toNat / 2) else a), 0#8]
      | .eightBitRead a =>
        [0x00#8, 0x00#8, 3#8, (if mode = .address then BitVec.ofNat 8 (a.toNat / 2) else a), 0#8]
      | .tenBit a =>
        if a.toNat ≤ 0x3FF then
          [0x00#8, 0x00#8, 3#8, BitVec.ofNat 8 a.toNat, BitVec.ofNat 8 (a.toNat / 256)]
        else [0x00#8, 0x01#8, 3#8, 0#8, 0#8]

/-- R108: the seven laws of the codec. -/
def Obligations.CodecLaws : Prop :=
  (∀ a : Byte, a.toNat ≤ 0x7F → convTo7 (.eightBitWrite (a <<< 1)) = some (.sevenBit a)) ∧
  (∀ x y : Address, (convTo8R x = some y → y.payload.getLsbD 0 = true) ∧
    (convTo8W x = some y → y.payload.getLsbD 0 = false)) ∧
  (convTo7 (.tenBit 0x400#16) = none ∧ convTo7 (.tenBit 0x3FF#16) = some (.sevenBit 0x7F#8)) ∧
  (∀ a : Byte, a.toNat ≤ 0x7F →
    (convTo8W (.sevenBit a)).bind convTo7 = some (.sevenBit a) ∧
    (convTo8R (.sevenBit a)).bind convTo7 = some (.sevenBit a)) ∧
  (∀ (mode : Widen8Mode) (x : Address), (∀ a, x ≠ .tenBit a) →
    convTo7 x ≠ none ∧ convTo8W x ≠ none ∧ convTo8R x ≠ none ∧ convTo10 mode x ≠ none) ∧
  (∀ (mode : Widen8Mode) (a : U16),
    (convTo7 (.tenBit a) = none ↔ 0x3FF < a.toNat) ∧ (convTo8W (.tenBit a) = none ↔ 0x3FF < a.toNat) ∧
    (convTo8R (.tenBit a) = none ↔ 0x3FF < a.toNat) ∧ (convTo10 mode (.tenBit a) = none ↔ 0x3FF < a.toNat)) ∧
  (∀ a b : U16, a.toNat ≤ 0x3FF → b.toNat ≤ 0x3FF →
    (a.toNat / 256 = b.toNat / 256 →
      convTo8W (.tenBit a) = convTo8W (.tenBit b) ∧ convTo8R (.tenBit a) = convTo8R (.tenBit b)) ∧
    (a.toNat % 128 = b.toNat % 128 → convTo7 (.tenBit a) = convTo7 (.tenBit b)))

/-- R90: the bits of the header byte, and the response it appears in (that the row is executed so is log 12). -/
def Obligations.HeaderByteAnswersAsConversion : Prop :=
  ∀ (a : BitVec 2) (s : State),
    exec (.hdr10 a false) s = .next (s.answered [0x00#8, 0x00#8, 1#8, BitVec.ofNat 8 (0xF0 + 2 * a.toNat), 0#8]) ∧
    exec (.hdr10 a true) s = .next (s.answered [0x00#8, 0x00#8, 2#8, BitVec.ofNat 8 (0xF1 + 2 * a.toNat), 0#8])

/-! ### Framer -/

/-- R136, R130, R85: SEND_CMD, every value of `b` unchanged. -/
def Obligations.SendCmdIsOneTransfer : Prop :=
  (∀ (b : Byte) (rest : List Byte), decodeHost ([0x10#8, b] ++ rest) = .command (.sendCmd b) rest) ∧
  ∀ (b : Byte) (s : State), exec (.sendCmd b) s =
    .next ((s.sent [[0x00#8, b]]).answered [0x00#8, if s.transport.answerAt 0 then 0x01#8 else 0x00#8])

/-- R137, R130, R86: SEND_DATA, an empty payload included. -/
def Obligations.SendDataIsOneTransfer : Prop :=
  (∀ data rest : List Byte, data.length ≤ 65535 →
    decodeHost ([0x11#8] ++ leHalf (BitVec.ofNat 16 data.length) ++ data ++ rest) = .command (.sendData data) rest) ∧
  ∀ (data : List Byte) (s : State), exec (.sendData data) s =
    .next ((s.sent [0x40#8 :: data]).answered [0x00#8, if s.transport.answerAt 0 then 0x01#8 else 0x00#8])

/-- R134, R91: INIT sends the block's INIT_SEQ, whatever its 27 bytes are; and in a state that meets the invariant,
which holds it to an admissible one, the command transfers of 81, 7F, then of 8D, 14, then of AF are among them in that
order, those of a pair one after the other (R133; that AF may stand anywhere after the pairs is log 4's reading). -/
def Obligations.InitSendsTheSequence : Prop :=
  (∀ rest : List Byte, decodeHost (0x12#8 :: rest) = .command .initDisplay rest) ∧
  (∀ s : State, exec .initDisplay s =
    .next ((s.sent (s.params.initSeq.toList.map fun b => [0x00#8, b])).answered
      [0x00#8, BitVec.ofNat 8 (s.failures 27)])) ∧
  ∀ s : State, s.Inv → ∃ a b c d : List (List Byte),
    (s.params.initSeq.toList.map fun b => [0x00#8, b]) =
      a ++ [[0x00#8, 0x81#8], [0x00#8, 0x7F#8]] ++ b ++ [[0x00#8, 0x8D#8], [0x00#8, 0x14#8]] ++ c ++
        [[0x00#8, 0xAF#8]] ++ d

/-- R135: CLEAR. -/
def Obligations.ClearSendsZeroPages : Prop :=
  (∀ rest : List Byte, decodeHost (0x13#8 :: rest) = .command .clearDisplay rest) ∧
  ∀ s : State, exec .clearDisplay s =
    .next ((s.sent (pageTransfers fun _ => List.replicate 128 0x00#8)).answered
      [0x00#8, BitVec.ofNat 8 (s.failures 32)])

/-- R164: FLUSH. -/
def Obligations.FlushSendsTheFrameBuffer : Prop :=
  (∀ rest : List Byte, decodeHost (0x24#8 :: rest) = .command .flush rest) ∧
  ∀ s : State, exec .flush s =
    .next ((s.sent (pageTransfers s.fb.encodePage)).answered [0x00#8, BitVec.ofNat 8 (s.failures 32)])

/-- R231: BEGIN is INIT's transfers, then CLEAR's, with one combined count of failures. -/
def Obligations.BeginSendsInitThenClear : Prop :=
  (∀ rest : List Byte, decodeHost (0x50#8 :: rest) = .command .beginSession rest) ∧
  ∀ s : State, exec .beginSession s =
    .next ((s.sent ((s.params.initSeq.toList.map fun b => [0x00#8, b]) ++
        pageTransfers fun _ => List.replicate 128 0x00#8)).answered
      [0x00#8, BitVec.ofNat 8 (s.failures 59)])

/-- R139: how many transfers and bytes the composite commands send, one animation frame being a flush. -/
def Obligations.TransferCountsAndSizes : Prop :=
  let bytes := fun ws : List Wire => (ws.map fun w => w.bytes.length).sum
  (∀ seq : Vector Byte 27, (initWires seq.toList).length = 27 ∧ bytes (initWires seq.toList) = 54) ∧
  (clearWires.length = 32 ∧ bytes clearWires = 1080) ∧
  (∀ fb : Memory, (flushWires fb).length = 32 ∧ bytes (flushWires fb) = 1080) ∧
  (∀ seq : Vector Byte 27,
    (initWires seq.toList ++ clearWires).length = 59 ∧ bytes (initWires seq.toList ++ clearWires) = 1134)

/-- R85, R86, R88, R89, R91: the wire rows that are transfers (that a row is executed so is log 11). -/
def Obligations.WireRowsAreOneTransferEach : Prop :=
  ∀ s : State,
    (∀ cmd : Byte, exec (.wCmd cmd) s = .next (s.sent [[0x00#8, cmd]])) ∧
    (∀ payload : List Byte, exec (.wData payload) s = .next (s.sent [0x40#8 :: payload])) ∧
    (∀ p : BitVec 3, exec (.pageSelect p) s = .next (s.sent [[0x00#8, BitVec.ofNat 8 (0xB0 + p.toNat)]])) ∧
    exec .colLow s = .next (s.sent [[0x00#8, 0x00#8]]) ∧
    exec .colHigh s = .next (s.sent [[0x00#8, 0x10#8]]) ∧
    (∀ k : Fin 27, exec (.initByte k) s = .next (s.sent [[0x00#8, s.params.initSeq[k.val]]]))

/-- R131, R87: the control byte of `F_CTRL`'s kind leaves it for `F_PAYLOAD`. A control byte of the other kind, and one
in another framer state, have no edge in R131: what they do is the model's choice (log 13), and so is that `F_CTRL` holds
the payload. -/
def Obligations.ControlByteEntersPayload : Prop :=
  ∀ (d : Bool) (s : State), exec (.ctrlByte d) s =
    .next { s with
      framer := .payload (if d then .data else .cmd)
        (match s.framer with
        | .ctrl _ p => p
        | .idle => []
        | .payload _ _ _ => []
        | .wait _ => []) 0 }

/-- R131: from `F_CTRL`, the framer's edges deliver the assembled bytes as one transfer and return to `F_IDLE`. That
`F_CTRL` holds the payload is log 13, that an edge is one micro-step is log 24, and that `SEQ.nfail` counts the failure is
log 17. -/
def Obligations.FramerDeliversOneTransfer : Prop :=
  ∀ (k : Kind) (p : List Byte) (s : State), s.framer = .ctrl k p →
    microRun (p.length + 3) s =
      { s.sent [(if k = .data then 0x40#8 else 0x00#8) :: p] with
        framer := .idle
        seq := { s.seq with
          nfail := BitVec.ofNat 32 (min (s.seq.nfail.toNat + s.failures 1) 0xFFFFFFFF) } }

/-- R23, R138: neither the Transport's answers nor `STATUS` change what a command sends, draws or animates. -/
def Obligations.FailuresNeverChangeWhatIsSent : Prop :=
  ∀ (i : Instr) (s a b : State) (tr : Transport) (st : Status),
    exec i s = .next a → exec i { s with transport := tr, status := st } = .next b →
    a.trace.map Event.unanswered = b.trace.map Event.unanswered ∧
    a.fb = b.fb ∧ a.anim = b.anim ∧ a.addr = b.addr

/-! ### Frame buffer -/

/-- R160: FB_ZERO. -/
def Obligations.FbZeroClearsEveryPixel : Prop :=
  (∀ rest : List Byte, decodeHost (0x20#8 :: rest) = .command .fbZero rest) ∧
  ∀ s : State, ∃ m : Memory,
    exec .fbZero s = .next (({ s with fb := m } : State).answered [0x00#8]) ∧
    (∀ x y : Nat, x < 128 → y < 64 → m.pixel x y = false) ∧ (∀ a : Nat, m.readByte a = 0#8)

/-- R161: SET_PIXEL sets its pixel and no other, and an off-screen write does nothing. -/
def Obligations.SetPixelSetsOnePixel : Prop :=
  (∀ (x y : U16) (rest : List Byte),
    decodeHost ([0x21#8] ++ leHalf x ++ leHalf y ++ rest) = .command (.setPixel x y) rest) ∧
  ∀ (x y : U16) (s : State), s.fb.wf = true → ∃ m : Memory,
    exec (.setPixel x y) s = .next (({ s with fb := m } : State).answered [0x00#8]) ∧
    (∀ x' y' : Nat, x' < 128 → y' < 64 →
      m.pixel x' y' = (s.fb.pixel x' y' || decide ((x' : Int) = x.toInt ∧ (y' : Int) = y.toInt))) ∧
    (¬(0 ≤ x.toInt ∧ x.toInt < 128 ∧ 0 ≤ y.toInt ∧ y.toInt < 64) → m = s.fb)

/-- R162: ENCODE_PAGE. -/
def Obligations.EncodePageReadsItsRows : Prop :=
  (∀ (page : Byte) (rest : List Byte), decodeHost ([0x22#8, page] ++ rest) = .command (.encodePage page) rest) ∧
  ∀ (page : Byte) (s : State),
    (7 < page.toNat → exec (.encodePage page) s = .next (s.answered [0x03#8])) ∧
    (page.toNat ≤ 7 → ∃ bytes : List Byte,
      exec (.encodePage page) s = .next (s.answered (0x00#8 :: bytes)) ∧ bytes.length = 128 ∧
      ∀ c n : Nat, c < 128 → n < 8 → (bytes.getD c 0#8).getLsbD n = s.fb.pixel c (8 * page.toNat + n))

/-- R163: DECODE_PAGE. -/
def Obligations.DecodePageWritesItsRows : Prop :=
  (∀ (page : Byte) (d rest : List Byte), d.length = 128 →
    decodeHost ([0x23#8, page] ++ d ++ rest) = .command (.decodePage page d) rest) ∧
  ∀ (page : Byte) (d : List Byte) (s : State), s.fb.wf = true → d.length = 128 →
    (7 < page.toNat → exec (.decodePage page d) s = .next (s.answered [0x03#8])) ∧
    (page.toNat ≤ 7 → ∃ m : Memory,
      exec (.decodePage page d) s = .next (({ s with fb := m } : State).answered [0x00#8]) ∧
      ∀ x y : Nat, x < 128 → y < 64 →
        m.pixel x y = if y / 8 = page.toNat then (d.getD x 0#8).getLsbD (y % 8) else s.fb.pixel x y)

/-- R165: the five laws of the encoder and the decoder. -/
def Obligations.EncoderDecoderLaws : Prop :=
  ∀ (m : Memory) (p : Nat), m.wf = true → p < 8 →
    m.decodePage p (m.encodePage p) = m ∧
    (∀ b : List Byte, b.length = 128 → (m.decodePage p b).encodePage p = b) ∧
    (∀ c n : Nat, c < 128 → n < 8 → ((m.encodePage p).getD c 0#8).getLsbD n = m.pixel c (8 * p + n)) ∧
    (∀ m' : Memory, (∀ c n : Nat, c < 128 → n < 8 → m.pixel c (8 * p + n) = m'.pixel c (8 * p + n)) →
      m.encodePage p = m'.encodePage p) ∧
    Memory.zero.encodePage p = List.replicate 128 0x00#8

/-- The bytes the drawing commands leave as they were: SET_PIXEL stores to the byte of its pixel, DECODE_PAGE to the 128
bytes of its page, DRAW_LINE to the bytes of its on-screen points (R50, R51, R55). -/
def Obligations.DrawingLeavesOtherBytes : Prop :=
  ∀ (s t : State) (a : Nat), s.fb.wf = true →
    (∀ x y : U16, exec (.setPixel x y) s = .next t →
      (onScreen (coord x) (coord y) = true → a ≠ pixelAddr (coord x).toNat (coord y).toNat) →
      t.fb.readByte a = s.fb.readByte a) ∧
    (∀ (page : Byte) (d : List Byte), exec (.decodePage page d) s = .next t →
      ¬(pageAddr (pageNum page) 0 ≤ a ∧ a < pageAddr (pageNum page) 0 + 128) →
      t.fb.readByte a = s.fb.readByte a) ∧
    (∀ x0 y0 x1 y1 : U16, exec (.drawLine x0 y0 x1 y1) s = .next t →
      (∀ p ∈ linePoints ⟨coord x0, coord y0⟩ ⟨coord x1, coord y1⟩, onScreen p.x p.y = true →
        a ≠ pixelAddr p.x.toNat p.y.toNat) →
      t.fb.readByte a = s.fb.readByte a)

/-! ### Rasterizer -/

/-- R180: the plotted points are those of the pseudocode's loop, run to its stop, and DRAW_LINE sets them. -/
def Obligations.DrawLineRunsTheLoopToItsEnd : Prop :=
  (∀ (x0 y0 x1 y1 : U16) (rest : List Byte),
    decodeHost ([0x30#8] ++ leHalf x0 ++ leHalf y0 ++ leHalf x1 ++ leHalf y1 ++ rest) = .command (.drawLine x0 y0 x1 y1) rest) ∧
  (∀ a b : Vertex,
    BresenhamRun b.x b.y |b.x - a.x| (-|b.y - a.y|) (if a.x < b.x then 1 else -1) (if a.y < b.y then 1 else -1)
      a.x a.y (|b.x - a.x| + -|b.y - a.y|) (linePoints a b)) ∧
  (∀ (x0 y0 x1 y1 : U16) (s : State), exec (.drawLine x0 y0 x1 y1) s =
    .next (({ s with
      fb := (linePoints ⟨x0.toInt, y0.toInt⟩ ⟨x1.toInt, y1.toInt⟩).foldl (fun m p => m.setPixel p.x p.y) s.fb } :
        State).answered [0x00#8]))

/-- R182: termination, the number of points, and their properties. -/
def Obligations.LinePointsCountAndShape : Prop :=
  ∀ a b : Vertex,
    (linePoints a b).length = max (b.x - a.x).natAbs (b.y - a.y).natAbs + 1 ∧
    (linePoints a b).head? = some a ∧ (linePoints a b).getLast? = some b ∧
    (∀ (k : Nat) (p q : Vertex), (linePoints a b)[k]? = some p → (linePoints a b)[k + 1]? = some q →
      (q.x - p.x).natAbs ≤ 1 ∧ (q.y - p.y).natAbs ≤ 1 ∧ p ≠ q) ∧
    (∀ p ∈ linePoints a b, min a.x b.x ≤ p.x ∧ p.x ≤ max a.x b.x ∧ min a.y b.y ≤ p.y ∧ p.y ≤ max a.y b.y) ∧
    (linePoints a b).Nodup

/-- R183: `err` starts in `[2 * dy, 2 * dx]` and one iteration keeps it there. -/
def Obligations.LineErrorStaysInRange : Prop :=
  (∀ a b : Vertex,
    2 * (lineSetup a b).dy ≤ (lineSetup a b).dx + (lineSetup a b).dy ∧
    (lineSetup a b).dx + (lineSetup a b).dy ≤ 2 * (lineSetup a b).dx) ∧
  ∀ (c : LineSetup) (p : LineState), c.dy ≤ 0 → 0 ≤ c.dx → 2 * c.dy ≤ p.err → p.err ≤ 2 * c.dx →
    2 * c.dy ≤ (lineNext c p).err ∧ (lineNext c p).err ≤ 2 * c.dx

/-- R181, R185: a line sets exactly its on-screen points, whatever FB held. -/
def Obligations.LineSetsExactlyItsPoints : Prop :=
  ∀ (m : Memory) (a b : Vertex) (x y : Nat), m.wf = true → x < 128 → y < 64 →
    (m.drawLine a b).pixel x y = (m.pixel x y || decide ((⟨x, y⟩ : Vertex) ∈ linePoints a b))

/-- R184: the algorithm is not symmetric in general, and is for horizontal, vertical and diagonal lines. -/
def Obligations.LinesAsymmetricInGeneralSymmetricIfStraight : Prop :=
  (linePoints ⟨0, 0⟩ ⟨2, 1⟩ = [⟨0, 0⟩, ⟨1, 1⟩, ⟨2, 1⟩] ∧ linePoints ⟨2, 1⟩ ⟨0, 0⟩ = [⟨2, 1⟩, ⟨1, 0⟩, ⟨0, 0⟩]) ∧
  ∀ a b : Vertex, (a.y = b.y ∨ a.x = b.x ∨ (b.x - a.x).natAbs = (b.y - a.y).natAbs) →
    ∀ p : Vertex, p ∈ linePoints a b ↔ p ∈ linePoints b a

/-! ### Animation -/

/-- R205, R201, R202, R208, R209: TRIANGLE answers the six truncated coordinates and changes nothing; and the vertices of
every frame are those of the formulas, written out in binary64 operations with CX = 64.0, CY = 32.0, R = 28.0, THETA0,
OFF150 and ANGLE_STEP of R25 as patterns, for every SIN, COS and BASE_ANGLE. -/
def Obligations.TriangleAnswersSixCoordinates : Prop :=
  (∀ (idx : U32) (rest : List Byte), decodeHost ([0x40#8] ++ le32 idx ++ rest) = .command (.triangle idx) rest) ∧
  (∀ (idx : U32) (s : State), ∃ t : Triangle, t = triangleOf Config.trig s.params.baseAngle idx ∧
    exec (.triangle idx) s = .next (s.answered (0x00#8 :: (le16 t.v0.x ++ le16 t.v0.y ++ le16 t.v1.x ++
      le16 t.v1.y ++ le16 t.v2.x ++ le16 t.v2.y)))) ∧
  ∀ (g : Trig) (base : F64) (i : U32),
    let cx : F64 := 0x4050000000000000#64
    let cy : F64 := 0x4040000000000000#64
    let r : F64 := 0x403C000000000000#64
    let theta0 : F64 := 0xBFF921FB54442D18#64
    let off150 : F64 := 0x4004F1A6C638D03F#64
    let a : F64 := F64.add base (F64.mul (F64.ofU32 i) 0x3FA1DF46A2529D39#64)
    let c : F64 := g.cos a
    let s : F64 := g.sin a
    let vertex : F64 → Vertex := fun t =>
      let bx : F64 := F64.add cx (F64.mul r (g.cos t))
      let by' : F64 := F64.add cy (F64.mul r (g.sin t))
      ⟨F64.trunc (F64.add (F64.sub (F64.mul c (F64.sub bx cx)) (F64.mul s (F64.sub by' cy))) cx),
        F64.trunc (F64.add (F64.add (F64.mul s (F64.sub bx cx)) (F64.mul c (F64.sub by' cy))) cy)⟩
    triangleOf g base i = ⟨vertex theta0, vertex (F64.add theta0 off150), vertex (F64.sub theta0 off150)⟩

/-- R215 item 2 (R201, R202, R208): frame 0's apex is (64, 4) under BASE_ANGLE = +0.0 and every SIN and COS with
`COS(0.0) = 1.0`, `SIN(0.0) = 0.0`, `SIN(THETA0) = -1.0` and `|COS(THETA0)| < 1.2e-16`. -/
def Obligations.FrameZeroApexIsCentreTop : Prop :=
  ∀ (g : Trig) (v : ℚ), g.cos 0#64 = 0x3FF0000000000000#64 → g.sin 0#64 = 0#64 →
    (g.cos F64.theta0).value? = some v → |v| < 12 / 10 ^ 17 → g.sin F64.theta0 = 0xBFF0000000000000#64 →
    (triangleOf g 0#64 0#32).v0 = ⟨64, 4⟩

/-- R12, R209: `f64(i)` is exact for every `u32`; and floor, truncation, the test `> 0.0` and the limit [-1, 1] of a pattern
are those of the number it denotes. -/
def Obligations.FrameNumberAndReadingsAreExact : Prop :=
  (∀ i : U32, (F64.ofU32 i).value? = some (i.toNat : ℚ)) ∧
  (∀ (a : F64) (v : ℚ), a.value? = some v →
    a.floor? = some ⌊v⌋ ∧ a.trunc = (if 0 ≤ v then ⌊v⌋ else ⌈v⌉) ∧
    (a.gtZero = true ↔ 0 < v) ∧ (a.inUnit = true ↔ |v| ≤ 1)) ∧
  (∀ a : F64, a.value? = none →
    a.floor? = none ∧ a.inUnit = false ∧ (a.gtZero = true ↔ a = F64.plusInf))

/-- R12, R202: the four operations on finite numbers give the exact result rounded once, to nearest with ties to even;
and the products and the quotient of R203 and R204 at +infinity. -/
def Obligations.ArithmeticRoundsToNearestEven : Prop :=
  (∀ (a b : F64) (v w : ℚ), a.value? = some v → b.value? = some w →
    (F64.add a b).IsNearest (v + w) ∧ (F64.sub a b).IsNearest (v - w) ∧ (F64.mul a b).IsNearest (v * w) ∧
    (w ≠ 0 → (F64.div a b).IsNearest (v / w))) ∧
  (∀ a : F64, a.gtZero = true →
    F64.mul F64.plusInf a = F64.plusInf ∧ F64.mul a F64.plusInf = F64.plusInf) ∧
  F64.div 0x3FF0000000000000#64 F64.plusInf = 0#64

/-- R208: the machine's SIN and COS return values in [-1, 1] (P_TRIG). -/
def Obligations.TrigValuesLieInUnitRange : Prop :=
  ∀ x : F64, F64.inUnit (Config.trig.sin x) = true ∧ F64.inUnit (Config.trig.cos x) = true

/-- R206, R207: DRAW_FRAME leaves exactly the points of the three edges, each in its direction. -/
def Obligations.DrawFrameDrawsThreeEdges : Prop :=
  (∀ (idx : U32) (rest : List Byte), decodeHost ([0x41#8] ++ le32 idx ++ rest) = .command (.drawFrame idx) rest) ∧
  ∀ (idx : U32) (s : State), ∃ (m : Memory) (t : Triangle), t = triangleOf Config.trig s.params.baseAngle idx ∧
    exec (.drawFrame idx) s = .next (({ s with fb := m } : State).answered [0x00#8]) ∧
    ∀ x y : Nat, x < 128 → y < 64 →
      m.pixel x y = decide ((⟨x, y⟩ : Vertex) ∈ linePoints t.v0 t.v1 ∨ (⟨x, y⟩ : Vertex) ∈ linePoints t.v1 t.v2 ∨
        (⟨x, y⟩ : Vertex) ∈ linePoints t.v2 t.v0)

/-- R203, R240, R242: the faults of RUN_ANIM, the tests on `duration` and `fps` before the product. By pattern: a NaN has
exponent field 2047 and a fraction, and +0.0, -0.0, the negatives and every NaN give BAD_TIMING; what is left is a
positive number or +infinity, and one +infinity then gives FRAME_RANGE. -/
def Obligations.RunAnimFaultsOnBadTiming : Prop :=
  ∀ (duration fps : F64) (s : State),
    (∀ x : F64, (x = duration ∨ x = fps) →
      (x.toNat / 2 ^ 52 % 2048 = 2047 ∧ x.toNat % 2 ^ 52 ≠ 0) ∨ x = 0#64 ∨ x = 0x8000000000000000#64 ∨ x.msb = true →
      exec (.runAnim duration fps) s = .next (s.answered [0x04#8])) ∧
    (0 < duration.toNat → duration.toNat ≤ 0x7FF0000000000000 → 0 < fps.toNat → fps.toNat ≤ 0x7FF0000000000000 →
      duration = F64.plusInf ∨ fps = F64.plusInf →
      exec (.runAnim duration fps) s = .next (s.answered [0x05#8])) ∧
    ((F64.gtZero duration = false ∨ F64.gtZero fps = false) →
      exec (.runAnim duration fps) s = .next (s.answered [0x04#8])) ∧
    (F64.gtZero duration = true → F64.gtZero fps = true →
      (F64.floor? (F64.mul duration fps) = none ∨
        ∃ n : Int, F64.floor? (F64.mul duration fps) = some n ∧ 0xFFFFFFFF < n) →
      exec (.runAnim duration fps) s = .next (s.answered [0x05#8]))

/-- R203, R204, R213, R200, R138: what an accepted RUN_ANIM of `n` frames leaves, in every field but the trace; positive
patterns are those of a positive number or of +infinity. That the run always completes rests on log 16, SIN and COS are
those of log 3. -/
def Obligations.RunAnimRunsToDone : Prop :=
  (∀ (duration fps : F64) (rest : List Byte),
    decodeHost ([0x42#8] ++ le64 duration ++ le64 fps ++ rest) = .command (.runAnim duration fps) rest) ∧
  ∀ (duration fps : F64) (s : State) (n : U32),
    0 < duration.toNat → duration.toNat ≤ 0x7FF0000000000000 → 0 < fps.toNat → fps.toNat ≤ 0x7FF0000000000000 →
    F64.floor? (F64.mul duration fps) = some (n.toNat : Int) →
    ∃ t : State, exec (.runAnim duration fps) s = .next t ∧
      t.anim = { state := .done, index := n, count := n, delay := F64.div 0x3FF0000000000000#64 fps } ∧
      t.fb = (if n = 0#32 then s.fb
        else triangleImage (triangleOf Config.trig s.params.baseAngle (n - 1#32))) ∧
      t.responses = s.responses ++
        [0x00#8 :: (le32 n ++ le32 (BitVec.ofNat 32 (min (s.failures (32 * n.toNat)) 0xFFFFFFFF)))] ∧
      t.status = s.status.after (s.transport.answers (32 * n.toNat)) ∧
      t.transport = s.transport.after (32 * n.toNat) ∧
      t.port = { s.port with busy := false } ∧
      t.addr = s.addr ∧ t.framer = s.framer ∧ t.seq = s.seq ∧ t.resetIn = s.resetIn ∧
      t.params = s.params

/-- R210 to R213, R215 items 3 and 4, R58 item 4: the trace of a run of `n` frames, (32 XFER, DELAY) `n` times, each
frame's transfers carrying that frame (SIN and COS are those of log 3). -/
def Obligations.RunAnimTraceIsFramesAndDelays : Prop :=
  ∀ (duration fps : F64) (s t : State) (n : U32),
    animSetup duration fps = .ok n → exec (.runAnim duration fps) s = .next t →
    t.trace = s.trace ++ (List.range n.toNat).flatMap fun k =>
      xferEvents s.addr
        (pageTransfers
          (triangleImage (triangleOf Config.trig s.params.baseAngle (BitVec.ofNat 32 k))).encodePage)
        (((s.transport.answers (32 * n.toNat)).drop (32 * k)).take 32) ++
      [.delay (F64.div 0x3FF0000000000000#64 fps)]

/-- R214: ANIM_STATUS. -/
def Obligations.AnimStatusReportsTheSequencer : Prop :=
  (∀ rest : List Byte, decodeHost (0x43#8 :: rest) = .command .animStatus rest) ∧
  (∀ s : State, exec .animStatus s = .next (s.answered
    ([0x00#8, match s.anim.state with
      | .idle => 0#8
      | .rendering => 1#8
      | .done => 2#8] ++ le32 s.anim.index ++ le32 s.anim.count))) ∧
  (∀ s : State, s.Inv → s.port.busy = false → s.anim.state ≠ .rendering)

/-! ### The whole instruction set, and the hidden machinery -/

/-- R34, R22, R100: which host commands write which state; the hidden state, the bytes on the port, the reset signal and
the parameters are written by none. -/
def Obligations.CommandsWriteOnlyTheirState : Prop :=
  ∀ (i : Instr) (s t : State), i.isHost = true → exec i s = .next t →
    (t.addr ≠ s.addr → ∃ tag value, i = .addrSet tag value) ∧
    (t.status ≠ s.status → isSending i = true ∨ i = .statusClear) ∧
    (t.anim ≠ s.anim → ∃ duration fps, i = .runAnim duration fps) ∧
    (t.fb ≠ s.fb → isDrawing i = true) ∧
    (t.trace ≠ s.trace ∨ t.transport ≠ s.transport → isSending i = true) ∧
    t.framer = s.framer ∧ t.seq = s.seq ∧ t.resetIn = s.resetIn ∧ t.params = s.params ∧
    t.port.rx = s.port.rx ∧ t.port.incoming = s.port.incoming

/-- R131, R28, R210, R58: every host command, loaded into the sequencer and run in micro-steps of the framer FSM and of
the animation's phases, reaches exactly the state that `exec` gives; loaded, it has not answered. What one micro-step is,
is the model's cut (log 24), and what `SEQ` holds of the command is log 17. -/
def Obligations.MicroStepsReachTheResult : Prop :=
  ∀ (i : Instr) (s t : State), i.isHost = true → s.framer = .idle → s.seq = Seq.idle →
    exec i s = .next t →
    ∃ (l : State) (n : Nat), loadCommand i s = .next l ∧ l.responses = s.responses ∧ l.port = s.port ∧
      l.trace = s.trace ∧ microRun n l = t
end

