-- ==== Sys2Proof/Laws/Decode.lean ====
section
/-! SUPPORT. The little-endian numbers of Decode.lean and the opcode map. -/

namespace Sys2Proof

@[simp] theorem leBytes_length (n v : Nat) : (leBytes n v).length = n := by
  induction n generalizing v with
  | zero => rfl
  | succ n ih => simp [leBytes, ih]

/-- The number of the `n` low bytes of `v`. -/
theorem leNat_leBytes (n v : Nat) : leNat (leBytes n v) = v % 256 ^ n := by
  induction n generalizing v with
  | zero => simp [leBytes, leNat, Nat.mod_one]
  | succ n ih =>
    simp only [leBytes, leNat, ih, BitVec.toNat_ofNat]
    have h : v % (256 * 256 ^ n) = v % 256 + 256 * (v / 256 % 256 ^ n) := Nat.mod_mul
    exact h.symm.trans (by rw [Nat.pow_succ'])

theorem leNat_lt (bs : List Byte) : leNat bs < 256 ^ bs.length := by
  induction bs with
  | nil => simp [leNat]
  | cons b bs ih =>
    have hb := b.isLt
    simp only [leNat, List.length_cons, Nat.pow_succ]
    omega

@[simp] theorem u16OfBytes_u16le (v : U16) : u16OfBytes (u16le v) = v := by
  apply BitVec.eq_of_toNat_eq
  simpa [u16OfBytes, u16le, leNat_leBytes] using v.isLt

@[simp] theorem u32OfBytes_u32le (v : U32) : u32OfBytes (u32le v) = v := by
  apply BitVec.eq_of_toNat_eq
  simpa [u32OfBytes, u32le, leNat_leBytes] using v.isLt

@[simp] theorem f64OfBytes_f64le (v : F64) : f64OfBytes (f64le v) = v := by
  apply BitVec.eq_of_toNat_eq
  simpa [f64OfBytes, f64le, leNat_leBytes] using v.isLt

@[simp] theorem u16le_length (v : U16) : (u16le v).length = 2 := leBytes_length ..

@[simp] theorem u32le_length (v : U32) : (u32le v).length = 4 := leBytes_length ..

@[simp] theorem f64le_length (v : F64) : (f64le v).length = 8 := leBytes_length ..

/-- A row that the map finds is a row of the table with that opcode. -/
theorem opRow?_some {b : Byte} {r : OpRow} (h : opRow? b = some r) : r ∈ opTable ∧ r.code = b := by
  refine ⟨List.mem_of_find?_eq_some h, ?_⟩
  simpa using List.find?_some h

/-- No two rows of the opcode map share an opcode. -/
theorem opTable_noOverlap : opTable.Pairwise (fun r q => r.code ≠ q.code) := by decide

end Sys2Proof
end

