-- ==== Sys2Proof/Laws/Float64.lean ====
section
/-! SUPPORT. Binary64: what a pattern denotes, and that each operation is the exact result rounded once, to nearest with
ties to even. `round_isNearest'` says once what `round` does; the four operations are proved from it. -/

namespace Sys2Proof
namespace F64

/-- The number whose 63 magnitude bits are `k`, for a finite pattern. -/
def magnitude (k : Nat) : ℚ :=
  if k / 2 ^ 52 = 0 then k * (2 : ℚ) ^ (-1074 : Int)
  else (2 ^ 52 + k % 2 ^ 52 : Nat) * (2 : ℚ) ^ ((k / 2 ^ 52 : Nat) - 1075 : Int)

/-- A number as its sign says. -/
def signedQ (neg : Bool) (v : ℚ) : ℚ := if neg then -v else v

theorem msb_toNat (x : F64) : x.msb = decide (2 ^ 63 ≤ x.toNat) := by
  simp [BitVec.msb_eq_decide]

theorem field_mod (x : F64) : x.toNat / 2 ^ 52 % 2048 = x.toNat % 2 ^ 63 / 2 ^ 52 := by
  omega

theorem value?_eq (x : F64) : x.value? =
    if 2047 * 2 ^ 52 ≤ x.toNat % 2 ^ 63 then none else some (signedQ x.msb (magnitude (x.toNat % 2 ^ 63))) := by
  have hx := x.isLt
  have h1 := field_mod x
  have h2 : x.toNat % 2 ^ 52 = x.toNat % 2 ^ 63 % 2 ^ 52 := by omega
  simp only [value?, signedQ, magnitude, h1, h2]
  generalize x.toNat % 2 ^ 63 = k at *
  by_cases hk : 2047 * 2 ^ 52 ≤ k
  · have : k / 2 ^ 52 = 2047 := by omega
    rw [if_pos this, if_pos hk]
  · have h3 : k / 2 ^ 52 ≠ 2047 := by omega
    rw [if_neg h3, if_neg hk]
    by_cases h0 : k / 2 ^ 52 = 0
    · rw [if_pos h0, if_pos h0]
      have : k % 2 ^ 52 = k := by omega
      rw [this]
      cases x.msb <;> simp
    · rw [if_neg h0, if_neg h0]
      cases x.msb
      · simp
      · simp only [if_true, neg_mul, one_mul]

theorem withSign_toNat (neg : Bool) {k : Nat} (hk : k < 2 ^ 63) :
    (withSign neg k).toNat = k + if neg then 2 ^ 63 else 0 := by
  simp only [withSign, BitVec.toNat_ofNat]
  cases neg <;> simp <;> omega

theorem withSign_msb (neg : Bool) {k : Nat} (hk : k < 2 ^ 63) : (withSign neg k).msb = neg := by
  rw [msb_toNat, withSign_toNat neg hk]
  cases neg
  · simpa using by omega
  · simp

theorem withSign_value? (neg : Bool) {k : Nat} (hk : k < 2047 * 2 ^ 52) :
    (withSign neg k).value? = some (signedQ neg (magnitude k)) := by
  have h63 : k < 2 ^ 63 := by omega
  have : (withSign neg k).toNat % 2 ^ 63 = k := by
    rw [withSign_toNat neg h63]; cases neg <;> simp <;> omega
  rw [value?_eq, this, if_neg (by omega), withSign_msb neg h63]

/-- Every finite pattern's magnitude is `M * 2^E` with a 53-bit `M` and `E` at least -1074. -/
theorem magnitude_form (k : Nat) : ∃ (M : Nat) (E : Int), M < 2 ^ 53 ∧ -1074 ≤ E ∧ magnitude k = M * (2 : ℚ) ^ E := by
  unfold magnitude
  split
  · exact ⟨k, -1074, by omega, le_refl _, rfl⟩
  · exact ⟨_, _, by omega, by omega, rfl⟩

theorem magnitude_nonneg (k : Nat) : 0 ≤ magnitude k := by
  obtain ⟨M, E, -, -, h⟩ := magnitude_form k
  rw [h]; positivity

/-- The magnitude that `round` packs. -/
theorem magnitude_pack (j sig : Nat) (hs : sig ≤ 2 ^ 53) (h : j = 0 ∨ 2 ^ 52 ≤ sig) :
    magnitude (j * 2 ^ 52 + sig) = sig * (2 : ℚ) ^ ((j : Int) - 1074) := by
  unfold magnitude
  by_cases h0 : (j * 2 ^ 52 + sig) / 2 ^ 52 = 0
  · rw [if_pos h0]
    have : j = 0 := by omega
    subst this; simp
  · rw [if_neg h0]
    rcases Nat.lt_or_ge sig (2 ^ 53) with hlt | hge
    · have e1 : (j * 2 ^ 52 + sig) / 2 ^ 52 = j + 1 := by omega
      have e2 : 2 ^ 52 + (j * 2 ^ 52 + sig) % 2 ^ 52 = sig := by omega
      rw [e1, e2]; congr 2; push_cast; ring
    · have e0 : sig = 2 ^ 53 := by omega
      have e1 : (j * 2 ^ 52 + sig) / 2 ^ 52 = j + 2 := by omega
      have e2 : 2 ^ 52 + (j * 2 ^ 52 + sig) % 2 ^ 52 = 2 ^ 52 := by omega
      rw [e1, e2, e0]
      have : (((j + 2 : Nat) : Int) - 1075) = ((j : Int) - 1074) + 1 := by push_cast; ring
      rw [this, zpow_add_one₀ (by norm_num)]
      push_cast; ring

/-- `s` is the integer nearest to `x`, a tie to the even one. -/
def NearestInt (s : Nat) (x : ℚ) : Prop := |(s : ℚ) - x| ≤ 1 / 2 ∧ (|(s : ℚ) - x| = 1 / 2 → s % 2 = 0)

theorem NearestInt.le {s : Nat} {x : ℚ} (h : NearestInt s x) (j : Int) : |(s : ℚ) - x| ≤ |(j : ℚ) - x| := by
  by_cases hj : j = s
  · subst hj; simp
  · have h1 : (1 : ℚ) ≤ |(j : ℚ) - s| := by
      have : (1 : Int) ≤ |j - s| := Int.one_le_abs (sub_ne_zero.2 hj)
      exact_mod_cast this
    have h2 : |(j : ℚ) - s| ≤ |(j : ℚ) - x| + |(s : ℚ) - x| := by
      have := abs_sub_le (j : ℚ) x s
      rwa [abs_sub_comm x s] at this
    have := h.1
    linarith

theorem NearestInt.tie {s : Nat} {x : ℚ} (h : NearestInt s x) {j : Int} (hj : j ≠ s)
    (he : |(s : ℚ) - x| = |(j : ℚ) - x|) : s % 2 = 0 := by
  apply h.2
  have h1 : (1 : ℚ) ≤ |(j : ℚ) - s| := by
    have : (1 : Int) ≤ |j - s| := Int.one_le_abs (sub_ne_zero.2 hj)
    exact_mod_cast this
  have h2 : |(j : ℚ) - s| ≤ |(j : ℚ) - x| + |(s : ℚ) - x| := by
    have := abs_sub_le (j : ℚ) x s
    rwa [abs_sub_comm x s] at this
  have := h.1
  linarith

/-- The pattern that a sign, a significand and a scale pack to. -/
def pack (neg : Bool) (q : Int) (sig : Nat) : F64 :=
  if 2047 * 2 ^ 52 ≤ (q + 1074).toNat * 2 ^ 52 + sig then infinity neg
  else withSign neg ((q + 1074).toNat * 2 ^ 52 + sig)

theorem signedQ_sub (neg : Bool) (a b : ℚ) : |signedQ neg a - signedQ neg b| = |a - b| := by
  cases neg
  · rfl
  · simp only [signedQ, if_true]; rw [← abs_neg]; congr 1; ring

theorem signedQ_opposite {neg neg' : Bool} (h : neg ≠ neg') {a b : ℚ} (ha : 0 ≤ a) (hb : 0 ≤ b) :
    |signedQ neg a - signedQ neg' b| = a + b := by
  cases neg <;> cases neg' <;> simp only [signedQ, if_true, if_false, ne_eq, not_true_eq_false, Bool.false_eq_true] at h ⊢
  · rw [sub_neg_eq_add, abs_of_nonneg (by linarith)]
  · rw [abs_of_nonpos (by linarith)]; ring

/-- Against every finite pattern, `sig * 2^q` is nearest to `x * 2^q`. -/
theorem nearest_magnitude {q : Int} {sig : Nat} {x : ℚ} (hn : NearestInt sig x)
    (hlo : q = -1074 ∨ 2 ^ 52 ≤ x) (k : Nat) :
    |(sig : ℚ) - x| * (2 : ℚ) ^ q ≤ |magnitude k - x * (2 : ℚ) ^ q| ∧
      (|(sig : ℚ) - x| * (2 : ℚ) ^ q = |magnitude k - x * (2 : ℚ) ^ q| →
        magnitude k ≠ sig * (2 : ℚ) ^ q → sig % 2 = 0) := by
  obtain ⟨M, E, hM, hE, hk⟩ := magnitude_form k
  have hp : (0 : ℚ) < (2 : ℚ) ^ q := by positivity
  rw [hk]
  rcases le_or_gt q E with hle | hgt
  · -- a multiple of 2^q
    obtain ⟨d, hd⟩ := Int.le.dest hle
    have hj : (M : ℚ) * (2 : ℚ) ^ E = ((M * 2 ^ d : Nat) : Int) * (2 : ℚ) ^ q := by
      rw [← hd, zpow_add₀ (by norm_num), zpow_natCast]; push_cast; ring
    rw [hj, ← sub_mul, abs_mul, abs_of_pos hp]
    refine ⟨mul_le_mul_of_nonneg_right (hn.le _) hp.le, fun he hne => ?_⟩
    refine hn.tie (j := ((M * 2 ^ d : Nat) : Int)) ?_ (mul_right_cancel₀ hp.ne' he)
    rintro hjs
    apply hne
    rw [hjs]; simp
  · -- below the scale
    have hx : (2 : ℚ) ^ 52 ≤ x := by
      rcases hlo with h | h
      · omega
      · exact h
    have hw : (M : ℚ) * (2 : ℚ) ^ E < 2 ^ 52 * (2 : ℚ) ^ q := by
      have h1 : (M : ℚ) < 2 ^ 53 := by exact_mod_cast hM
      have h2 : (2 : ℚ) ^ E ≤ (2 : ℚ) ^ (q - 1) := zpow_le_zpow_right₀ (by norm_num) (by omega)
      have h3 : (2 : ℚ) ^ q = (2 : ℚ) ^ (q - 1) * 2 := by
        rw [← zpow_add_one₀ (by norm_num)]; congr 1; ring
      have h4 : (0 : ℚ) < (2 : ℚ) ^ (q - 1) := by positivity
      have h5 : (0 : ℚ) < (2 : ℚ) ^ E := by positivity
      calc (M : ℚ) * (2 : ℚ) ^ E < 2 ^ 53 * (2 : ℚ) ^ E := mul_lt_mul_of_pos_right h1 h5
        _ ≤ 2 ^ 53 * (2 : ℚ) ^ (q - 1) := mul_le_mul_of_nonneg_left h2 (by norm_num)
        _ = 2 ^ 52 * (2 : ℚ) ^ q := by rw [h3]; ring
    have hlt : |(sig : ℚ) - x| * (2 : ℚ) ^ q < |(M : ℚ) * (2 : ℚ) ^ E - x * (2 : ℚ) ^ q| := by
      have h1 := hn.le (2 ^ 52)
      have h2 : |(((2 ^ 52 : Int)) : ℚ) - x| = x - 2 ^ 52 := by
        rw [abs_sub_comm, abs_of_nonneg] <;> push_cast <;> linarith
      rw [h2] at h1
      have h3 : (M : ℚ) * (2 : ℚ) ^ E - x * (2 : ℚ) ^ q < 0 := by nlinarith
      rw [abs_of_neg h3]
      nlinarith
    exact ⟨hlt.le, fun he => absurd he hlt.ne⟩

theorem overflow_scale (n : Nat) :
    (2 : ℚ) ^ (54 + n) - 2 ^ n = (2 ^ 53 - 1 / 2) * (2 : ℚ) ^ ((1 + n : Nat) : Int) := by
  rw [zpow_natCast, pow_add, pow_add]
  generalize (2 : ℚ) ^ n = t
  ring

/-- The overflow bound in units of the greatest scale. -/
theorem overflow_eq : (2 : ℚ) ^ 1024 - 2 ^ 970 = (2 ^ 53 - 1 / 2) * (2 : ℚ) ^ (971 : Int) := by
  have h := overflow_scale 970
  rw [show 54 + 970 = 1024 from rfl, show 1 + 970 = 971 from rfl] at h
  exact h

theorem zpow_double (q : Int) : (2 : ℚ) ^ (q + 1) = 2 * (2 : ℚ) ^ q := by
  rw [zpow_add_one₀ (by norm_num), mul_comm]

theorem NearestInt.sig_le {s : Nat} {x : ℚ} (h : NearestInt s x) (hx : x < 2 ^ 53) : s ≤ 2 ^ 53 := by
  have h1 := (abs_le.1 h.1).2
  have : (s : ℚ) < 2 ^ 53 + 1 := by linarith
  have : s < 2 ^ 53 + 1 := by exact_mod_cast this
  omega

theorem NearestInt.le_sig {s : Nat} {x : ℚ} (h : NearestInt s x) (hx : 2 ^ 52 ≤ x) : 2 ^ 52 ≤ s := by
  have h1 := (abs_le.1 h.1).1
  have : (2 ^ 52 : ℚ) < (s : ℚ) + 1 := by linarith
  have : 2 ^ 52 < s + 1 := by exact_mod_cast this
  omega

/-- A significand and a scale that pack past the finite patterns are a number past the overflow bound. -/
theorem overflow_of_pack {q : Int} {sig : Nat} {x : ℚ} (hn : NearestInt sig x) (h0 : 0 ≤ x)
    (hlo : q = -1074 ∨ 2 ^ 52 ≤ x) (hhi : x < 2 ^ 53)
    (hov : 2047 * 2 ^ 52 ≤ (q + 1074).toNat * 2 ^ 52 + sig) : (2 : ℚ) ^ 1024 - 2 ^ 970 ≤ x * (2 : ℚ) ^ q := by
  have hsig := hn.sig_le hhi
  rw [overflow_eq]
  rcases lt_or_ge q 972 with h | h
  · have e1 : q = 971 := by omega
    have e2 : sig = 2 ^ 53 := by omega
    have h1 := (abs_le.1 hn.1).2
    have h2 : (sig : ℚ) = 2 ^ 53 := by rw [e2]; norm_num
    rw [e1]
    exact mul_le_mul_of_nonneg_right (by linarith) (by positivity)
  · have hx : (2 : ℚ) ^ 52 ≤ x := by
      rcases hlo with h' | h'
      · omega
      · exact h'
    have h2 : (2 : ℚ) ^ (971 + 1 : Int) ≤ (2 : ℚ) ^ q := zpow_le_zpow_right₀ (by norm_num) h
    rw [zpow_double] at h2
    have h3 : (0 : ℚ) < (2 : ℚ) ^ (971 : Int) := by positivity
    generalize (2 : ℚ) ^ (971 : Int) = t at *
    nlinarith

/-- A significand and a scale that pack to a finite pattern are a number below the overflow bound. -/
theorem bounded_of_pack {q : Int} {sig : Nat} {x : ℚ} (hn : NearestInt sig x) (hhi : x < 2 ^ 53)
    (hsig' : q = -1074 ∨ 2 ^ 52 ≤ sig)
    (hlt : (q + 1074).toNat * 2 ^ 52 + sig < 2047 * 2 ^ 52) : x * (2 : ℚ) ^ q < (2 : ℚ) ^ 1024 - 2 ^ 970 := by
  rw [overflow_eq]
  rcases lt_or_ge q 971 with h | h
  · have h2 : (2 : ℚ) ^ q ≤ (2 : ℚ) ^ (970 : Int) := zpow_le_zpow_right₀ (by norm_num) (by omega)
    have h3 : (0 : ℚ) < (2 : ℚ) ^ q := by positivity
    have h4 : (2 : ℚ) ^ (971 : Int) = 2 * (2 : ℚ) ^ (970 : Int) := zpow_double 970
    have h6 := lt_of_lt_of_le h3 h2
    rw [h4]
    clear h4
    generalize (2 : ℚ) ^ (970 : Int) = t at *
    have h5 : x * (2 : ℚ) ^ q ≤ 2 ^ 53 * t := mul_le_mul hhi.le h2 h3.le (by norm_num)
    linarith
  · have e1 : q = 971 := by omega
    have hs : sig ≤ 2 ^ 53 - 1 := by omega
    have hs' : (sig : ℚ) ≤ 2 ^ 53 - 1 := by
      have : ((sig : Nat) : ℚ) ≤ ((2 ^ 53 - 1 : Nat) : ℚ) := Nat.cast_le.2 hs
      linarith [show (((2 ^ 53 - 1 : Nat)) : ℚ) = 2 ^ 53 - 1 by norm_num]
    have h1 := abs_le.1 hn.1
    have hx : x < 2 ^ 53 - 1 / 2 := by
      rcases lt_or_eq_of_le (show x ≤ 2 ^ 53 - 1 / 2 by linarith) with h' | h'
      · exact h'
      · exfalso
        have e3 : (sig : ℚ) = 2 ^ 53 - 1 := by linarith
        have e4 : sig = 2 ^ 53 - 1 := by
          have : ((sig : Nat) : ℚ) = ((2 ^ 53 - 1 : Nat) : ℚ) := by rw [e3]; norm_num
          exact_mod_cast this
        have := hn.2 (by rw [e3, h']; norm_num)
        omega
    rw [e1]
    exact mul_lt_mul_of_pos_right hx (by positivity)

theorem abs_signedQ (neg : Bool) {v : ℚ} (h : 0 ≤ v) : |signedQ neg v| = v := by
  cases neg
  · exact abs_of_nonneg h
  · simp only [signedQ, if_true, abs_neg]; exact abs_of_nonneg h

theorem infinity_value? (neg : Bool) : (infinity neg).value? = none := by cases neg <;> decide +kernel

theorem isNearest_infinity (neg : Bool) {v : ℚ} (h : (2 : ℚ) ^ 1024 - 2 ^ 970 ≤ v) :
    (infinity neg).IsNearest (signedQ neg v) := by
  have h3 : (0 : ℚ) < (2 : ℚ) ^ (971 : Int) := by positivity
  have hpos : 0 < v := by
    rw [overflow_eq] at h
    generalize (2 : ℚ) ^ (971 : Int) = t at *
    nlinarith
  simp only [IsNearest, infinity_value?, abs_signedQ neg hpos.le]
  refine ⟨h, ?_⟩
  cases neg
  · rw [if_neg (by simpa [signedQ] using hpos.le)]; decide
  · rw [if_pos (by simpa [signedQ] using hpos)]; decide

theorem withSign_even (neg : Bool) {k : Nat} (hk : k < 2 ^ 63) (he : k % 2 = 0) :
    (withSign neg k).getLsbD 0 = false := by
  simp only [BitVec.getLsbD, Nat.testBit_zero, withSign_toNat neg hk]
  cases neg <;> simp <;> omega

theorem isNearest_of_value? {p : F64} {v r : ℚ} (hr : p.value? = some r) (hb : |v| < 2 ^ 1024 - 2 ^ 970)
    (h : ∀ (q : F64) (w : ℚ), q.value? = some w →
      |r - v| ≤ |w - v| ∧ (|r - v| = |w - v| → w ≠ r → p.getLsbD 0 = false)) : p.IsNearest v := by
  unfold IsNearest
  rw [hr]
  exact ⟨hb, h⟩

/-- A significand nearest to `x` at its scale packs to a pattern nearest to the number. -/
theorem pack_isNearest (neg : Bool) {q : Int} {sig : Nat} {x : ℚ} (hq : -1074 ≤ q) (hn : NearestInt sig x)
    (h0 : 0 ≤ x) (hlo : q = -1074 ∨ 2 ^ 52 ≤ x) (hhi : x < 2 ^ 53) :
    (pack neg q sig).IsNearest (signedQ neg (x * (2 : ℚ) ^ q)) := by
  have hp : (0 : ℚ) < (2 : ℚ) ^ q := by positivity
  have hsig' : q = -1074 ∨ 2 ^ 52 ≤ sig := hlo.imp id hn.le_sig
  have h00 : 0 ≤ x * (2 : ℚ) ^ q := by positivity
  have hmag := magnitude_pack (q + 1074).toNat sig (hn.sig_le hhi) (by omega)
  rw [show (((q + 1074).toNat : Int) - 1074) = q by omega] at hmag
  unfold pack
  split
  case isTrue hov => exact isNearest_infinity neg (overflow_of_pack hn h0 hlo hhi hov)
  case isFalse hov =>
    have hlt : (q + 1074).toNat * 2 ^ 52 + sig < 2047 * 2 ^ 52 := by omega
    refine isNearest_of_value? (withSign_value? neg hlt) ?_ fun p w hw => ?_
    · rw [abs_signedQ neg h00]; exact bounded_of_pack hn hhi hsig' hlt
    have heven : sig % 2 = 0 → (withSign neg ((q + 1074).toNat * 2 ^ 52 + sig)).getLsbD 0 = false :=
      fun he => withSign_even neg (by omega) (by omega)
    have key : |signedQ neg (magnitude ((q + 1074).toNat * 2 ^ 52 + sig)) - signedQ neg (x * (2 : ℚ) ^ q)| =
        |(sig : ℚ) - x| * (2 : ℚ) ^ q := by
      rw [signedQ_sub, hmag, ← sub_mul, abs_mul, abs_of_pos hp]
    rw [value?_eq] at hw
    split at hw
    · exact absurd hw (by simp)
    · simp only [Option.some.injEq] at hw
      rw [key]
      by_cases hsn : p.msb = neg
      · have hn2 := nearest_magnitude hn hlo (p.toNat % 2 ^ 63)
        rw [← hw, hsn, signedQ_sub]
        refine ⟨hn2.1, fun he hne => heven (hn2.2 he fun hmm => hne ?_)⟩
        rw [hmm, hmag]
      · -- a number of the other sign is no nearer than zero
        have hz := nearest_magnitude hn hlo 0
        have hm0 : magnitude 0 = 0 := by simp [magnitude]
        rw [hm0, zero_sub, abs_neg, abs_of_nonneg h00] at hz
        have hmn := magnitude_nonneg (p.toNat % 2 ^ 63)
        rw [← hw, signedQ_opposite hsn hmn h00]
        refine ⟨by linarith [hz.1], fun he hne => ?_⟩
        have h1 : magnitude (p.toNat % 2 ^ 63) = 0 := by linarith [hz.1]
        refine heven (hz.2 (by rw [he, h1, zero_add]) fun hs0 => hne ?_)
        rw [hmag, h1, ← hs0]; cases neg <;> cases p.msb <;> simp [signedQ]

/-- The shifted significand is the integer nearest to `m / 2^k`. -/
theorem shiftRightEven_nearest (m k : Nat) : NearestInt (shiftRightEven m k) ((m : ℚ) / 2 ^ k) := by
  have hp : (0 : ℚ) < 2 ^ k := by positivity
  have hdm : (m : ℚ) = (m / 2 ^ k : Nat) * 2 ^ k + (m % 2 ^ k : Nat) := by
    have := Nat.div_add_mod' m (2 ^ k)
    exact_mod_cast this.symm
  have hx : (m : ℚ) / 2 ^ k = (m / 2 ^ k : Nat) + (m % 2 ^ k : Nat) / 2 ^ k := by
    rw [hdm]; field_simp
  have hlt : ((m % 2 ^ k : Nat) : ℚ) < 2 ^ k := by exact_mod_cast Nat.mod_lt m (Nat.two_pow_pos k)
  have h0 : (0 : ℚ) ≤ (m % 2 ^ k : Nat) := by positivity
  rw [hx]
  unfold shiftRightEven NearestInt
  simp only []
  generalize hr : m % 2 ^ k = r at *
  generalize hq : m / 2 ^ k = q at *
  have hf0 : 0 ≤ (r : ℚ) / 2 ^ k := by positivity
  have hf1 : (r : ℚ) / 2 ^ k < 1 := (div_lt_one hp).2 hlt
  have hhalf : ((r : ℚ) / 2 ^ k < 1 / 2 ↔ 2 * r < 2 ^ k) ∧ (1 / 2 < (r : ℚ) / 2 ^ k ↔ 2 ^ k < 2 * r) := by
    constructor
    · rw [div_lt_iff₀ hp]
      constructor
      · intro h; have : (2 * r : ℚ) < 2 ^ k := by linarith
        exact_mod_cast this
      · intro h; have : ((2 * r : Nat) : ℚ) < ((2 ^ k : Nat) : ℚ) := by exact_mod_cast h
        push_cast at this; linarith
    · rw [lt_div_iff₀ hp]
      constructor
      · intro h; have : (2 ^ k : ℚ) < 2 * r := by linarith
        exact_mod_cast this
      · intro h; have : ((2 ^ k : Nat) : ℚ) < ((2 * r : Nat) : ℚ) := by exact_mod_cast h
        push_cast at this; linarith
  generalize (r : ℚ) / 2 ^ k = f at *
  split
  case isTrue h =>
    have := hhalf.1.2 h
    rw [show (q : ℚ) - (q + f) = -f by ring, abs_neg, abs_of_nonneg hf0]
    exact ⟨this.le, fun he => absurd he this.ne⟩
  case isFalse h =>
    split
    case isTrue h' =>
      have := hhalf.2.2 h'
      rw [show ((q + 1 : Nat) : ℚ) - (q + f) = 1 - f by push_cast; ring, abs_of_nonneg (by linarith)]
      exact ⟨by linarith, fun he => by linarith⟩
    case isFalse h' =>
      have hfe : f = 1 / 2 := le_antisymm (not_lt.1 fun c => h' (hhalf.2.1 c)) (not_lt.1 fun c => h (hhalf.1.1 c))
      split
      case isTrue h2 =>
        rw [show (q : ℚ) - (q + f) = -f by ring, abs_neg, abs_of_nonneg hf0]
        exact ⟨hfe.le, fun _ => h2⟩
      case isFalse h2 =>
        rw [show ((q + 1 : Nat) : ℚ) - (q + f) = 1 - f by push_cast; ring, abs_of_nonneg (by linarith)]
        exact ⟨by linarith, fun _ => by omega⟩

/-- A number strictly within one of an odd `m` rounds as `m` does, from two places up. -/
theorem NearestInt.of_odd {m k s : Nat} {X : ℚ} (hn : NearestInt s ((m : ℚ) / 2 ^ k)) (hk : 2 ≤ k) (ho : m % 2 = 1)
    (hX : |X - m| < 1) : NearestInt s (X / 2 ^ k) := by
  obtain ⟨j, rfl⟩ : ∃ j, k = j + 2 := ⟨k - 2, by omega⟩
  have hp : (0 : ℚ) < 2 ^ (j + 2) := by positivity
  have h1 := hn.1
  have hd : |((s * 2 ^ (j + 2) : Nat) : Int) - m| ≤ 2 ^ (j + 1) := by
    have : |(s : ℚ) - m / 2 ^ (j + 2)| * 2 ^ (j + 2) ≤ 1 / 2 * 2 ^ (j + 2) := mul_le_mul_of_nonneg_right h1 hp.le
    rw [← abs_of_pos hp, ← abs_mul, abs_of_pos hp, sub_mul, div_mul_cancel₀ _ hp.ne'] at this
    have h2 : (1 / 2 : ℚ) * 2 ^ (j + 2) = 2 ^ (j + 1) := by ring
    rw [h2] at this
    exact_mod_cast this
  have hd' : |((s * 2 ^ (j + 2) : Nat) : Int) - m| ≤ 2 ^ (j + 1) - 1 := by
    have e1 : ((s * 2 ^ (j + 2) : Nat) : Int) = 2 * ((s * 2 ^ (j + 1) : Nat) : Int) := by push_cast; ring
    have e2 : (2 : Int) ^ (j + 1) = 2 * 2 ^ j := by ring
    rw [e1, e2] at hd ⊢
    generalize ((s * 2 ^ (j + 1) : Nat) : Int) = a at *
    generalize (2 : Int) ^ j = b at *
    rw [abs_le] at hd ⊢
    omega
  have hlt : |(s : ℚ) - X / 2 ^ (j + 2)| < 1 / 2 := by
    have h2 : (|((s * 2 ^ (j + 2) : Nat) : ℚ) - m|) ≤ 2 ^ (j + 1) - 1 := by
      have : ((|((s * 2 ^ (j + 2) : Nat) : Int) - m| : Int) : ℚ) ≤ ((2 ^ (j + 1) - 1 : Int) : ℚ) := by exact_mod_cast hd'
      push_cast at this ⊢
      exact this
    have h3 : |((s * 2 ^ (j + 2) : Nat) : ℚ) - X| < 2 ^ (j + 1) := by
      have := abs_sub_le ((s * 2 ^ (j + 2) : Nat) : ℚ) m X
      rw [abs_sub_comm (m : ℚ) X] at this
      linarith
    have h4 : (s : ℚ) - X / 2 ^ (j + 2) = (((s * 2 ^ (j + 2) : Nat) : ℚ) - X) / 2 ^ (j + 2) := by
      push_cast; field_simp
    rw [h4, abs_div, abs_of_pos hp, div_lt_iff₀ hp]
    calc _ < (2 : ℚ) ^ (j + 1) := h3
      _ = 1 / 2 * 2 ^ (j + 2) := by ring
  exact ⟨hlt.le, fun he => absurd he hlt.ne⟩

theorem NearestInt.self (s : Nat) : NearestInt s s := by simp [NearestInt]

/-- The number that `round` rounds: its argument `m * 2^e`, or any `X * 2^e` that an odd long `m` stands for. -/
theorem round_isNearest' (neg : Bool) (m : Nat) (e : Int) {X : ℚ}
    (h : X = m ∨ (m % 2 = 1 ∧ 2 ^ 54 ≤ m ∧ |X - m| < 1)) :
    (round neg m e).IsNearest (signedQ neg (X * (2 : ℚ) ^ e)) := by
  by_cases hm : m = 0
  · have hX : X = 0 := by
      rcases h with h | h
      · simpa [hm] using h
      · omega
    have := pack_isNearest neg (q := -1074) (sig := 0) (x := 0) (le_refl _) (by simpa using NearestInt.self 0) (le_refl _)
      (.inl rfl) (by norm_num)
    rw [zero_mul] at this
    rw [hX, zero_mul]
    have e1 : round neg m e = pack neg (-1074) 0 := by simp [round, hm, pack]
    rw [e1]; exact this
  · have hlog := Nat.log2_self_le hm
    have hlog' : m < 2 ^ (Nat.log2 m + 1) := Nat.lt_log2_self
    generalize hq : max ((Nat.log2 m : Int) + e - 52) (-1074) = q
    have hq1 : -1074 ≤ q := by omega
    have hround : round neg m e =
        pack neg q (if q ≤ e then m * 2 ^ (e - q).toNat else shiftRightEven m (q - e).toNat) := by
      simp only [round, hm, if_false, hq, pack]
    rw [hround]
    -- the number in units of 2^q
    have hx : ∃ x : ℚ, X * (2 : ℚ) ^ e = x * (2 : ℚ) ^ q ∧
        NearestInt (if q ≤ e then m * 2 ^ (e - q).toNat else shiftRightEven m (q - e).toNat) x ∧
        (0 ≤ x) ∧ (q = -1074 ∨ 2 ^ 52 ≤ x) ∧ x < 2 ^ 53 := by
      have h54 : (m % 2 = 1 ∧ 2 ^ 54 ≤ m ∧ |X - m| < 1) → 54 ≤ Nat.log2 m := by
        intro h; exact (Nat.le_log2 hm).2 h.2.1
      by_cases hqe : q ≤ e
      · have hXm : X = m := by
          rcases h with h | h
          · exact h
          · have := h54 h; omega
        obtain ⟨d, hd⟩ := Int.le.dest hqe
        have hd' : (e - q).toNat = d := by omega
        refine ⟨(m * 2 ^ d : Nat), ?_, ?_, by positivity, ?_, ?_⟩
        · rw [hXm, ← hd, zpow_add₀ (by norm_num), zpow_natCast]; push_cast; ring
        · rw [if_pos hqe, hd']; exact NearestInt.self _
        · by_cases hq0 : q = -1074
          · exact .inl hq0
          · right
            have : Nat.log2 m + d = 52 := by omega
            have : 2 ^ 52 ≤ m * 2 ^ d := by
              rw [← this, pow_add]; exact Nat.mul_le_mul_right _ hlog
            exact_mod_cast this
        · have : Nat.log2 m + 1 + d ≤ 53 := by omega
          have : m * 2 ^ d < 2 ^ 53 := by
            calc m * 2 ^ d < 2 ^ (Nat.log2 m + 1) * 2 ^ d := Nat.mul_lt_mul_of_pos_right hlog' (Nat.two_pow_pos d)
              _ = 2 ^ (Nat.log2 m + 1 + d) := by rw [← pow_add]
              _ ≤ 2 ^ 53 := Nat.pow_le_pow_right (by norm_num) this
          exact_mod_cast this
      · obtain ⟨k, hk⟩ := Int.le.dest (le_of_lt (not_le.1 hqe))
        have hk' : (q - e).toNat = k := by omega
        have hp : (0 : ℚ) < 2 ^ k := by positivity
        have hks : Nat.log2 m ≤ k + 52 := by omega
        have hmhi : m < 2 ^ (k + 53) := lt_of_lt_of_le hlog' (Nat.pow_le_pow_right (by norm_num) (by omega))
        have hmlo : q = -1074 ∨ 2 ^ (k + 52) ≤ m := by
          by_cases hq0 : q = -1074
          · exact .inl hq0
          · right
            have : Nat.log2 m = k + 52 := by omega
            rw [← this]; exact hlog
        have hXb : 0 ≤ X ∧ X < 2 ^ (k + 53) ∧ (q = -1074 ∨ 2 ^ (k + 52) ≤ X) := by
          rcases h with h | h
          · rw [h]
            refine ⟨by positivity, by exact_mod_cast hmhi, hmlo.imp id fun h => by exact_mod_cast h⟩
          · obtain ⟨ho, h54m, hd⟩ := h
            have hd1 := abs_lt.1 hd
            have hm1 : (1 : ℚ) ≤ m := by exact_mod_cast (by omega : 1 ≤ m)
            have e1 : (2 : Nat) ^ (k + 53) = 2 * 2 ^ (k + 52) := by ring
            have e2 : (2 : Nat) ^ (k + 52) = 2 * 2 ^ (k + 51) := by ring
            refine ⟨by linarith, ?_, hmlo.imp id fun h' => ?_⟩
            · have : m + 1 ≤ 2 ^ (k + 53) := hmhi
              have : ((m + 1 : Nat) : ℚ) ≤ ((2 ^ (k + 53) : Nat) : ℚ) := Nat.cast_le.2 this
              push_cast at this; linarith
            · have : 2 ^ (k + 52) + 1 ≤ m := by omega
              have : ((2 ^ (k + 52) + 1 : Nat) : ℚ) ≤ (m : ℚ) := Nat.cast_le.2 this
              push_cast at this; linarith
        refine ⟨X / 2 ^ k, ?_, ?_, div_nonneg hXb.1 hp.le, ?_, ?_⟩
        · rw [← hk, zpow_add₀ (by norm_num), zpow_natCast]; field_simp
        · rw [if_neg hqe, hk']
          have hn := shiftRightEven_nearest m k
          rcases h with h | h
          · rw [h]; exact hn
          · exact hn.of_odd (by have := h54 h; omega) h.1 h.2.2
        · refine hXb.2.2.imp id fun h => ?_
          rw [le_div_iff₀ hp, ← pow_add, add_comm]; exact h
        · rw [div_lt_iff₀ hp, ← pow_add, add_comm]; exact hXb.2.1
    obtain ⟨x, hxe, hn, h0, hlo, hhi⟩ := hx
    rw [hxe]
    exact pack_isNearest neg hq1 hn h0 hlo hhi

/-- `round` is rounding to nearest even. -/
theorem round_isNearest (neg : Bool) (m : Nat) (e : Int) :
    (round neg m e).IsNearest (signedQ neg (m * (2 : ℚ) ^ e)) := round_isNearest' neg m e (.inl rfl)

/-- What `unpack` gives is what the pattern denotes. -/
theorem value?_eq_unpack (x : F64) : x.value? =
    match unpack x with
    | .nan => none
    | .inf _ => none
    | .fin s m e => some (signedQ s (m * (2 : ℚ) ^ e)) := by
  have hb : x.msb = x.getLsbD 63 := rfl
  simp only [value?, unpack, hb]
  by_cases h1 : x.toNat / 2 ^ 52 % 2048 = 2047
  · rw [if_pos h1, if_pos h1]; by_cases hf : x.toNat % 2 ^ 52 = 0
    · rw [if_pos hf]
    · rw [if_neg hf]
  · rw [if_neg h1, if_neg h1]
    by_cases h2 : x.toNat / 2 ^ 52 % 2048 = 0
    · rw [if_pos h2, if_pos h2]
      cases x.getLsbD 63
      · simp only [signedQ, if_false, Bool.false_eq_true, one_mul]
      · simp only [signedQ, if_true, neg_mul, one_mul]
    · rw [if_neg h2, if_neg h2]
      cases x.getLsbD 63
      · simp only [signedQ, if_false, Bool.false_eq_true, one_mul]
      · simp only [signedQ, if_true, neg_mul, one_mul]

theorem value?_some {x : F64} {v : ℚ} (h : x.value? = some v) :
    ∃ s m e, unpack x = .fin s m e ∧ v = signedQ s (m * (2 : ℚ) ^ e) := by
  rw [value?_eq_unpack] at h
  split at h
  · simp at h
  · simp at h
  · next s m e he => exact ⟨s, m, e, he, (Option.some.inj h).symm⟩

theorem signedQ_mul (s t : Bool) (a b : ℚ) : signedQ s a * signedQ t b = signedQ (s != t) (a * b) := by
  cases s <;> cases t <;> simp [signedQ]

theorem signed_signedQ (s : Bool) (m : Nat) : ((signed s m : Int) : ℚ) = signedQ s m := by
  cases s <;> simp [signed, signedQ]
/-- A product is the exact one rounded once. -/
theorem mul_isNearest (a b : F64) (v w : ℚ) (ha : a.value? = some v) (hb : b.value? = some w) :
    (mul a b).IsNearest (v * w) := by
  obtain ⟨s, m, e, hu, rfl⟩ := value?_some ha
  obtain ⟨t, n, f, hu', rfl⟩ := value?_some hb
  simp only [mul, hu, hu']
  have := round_isNearest (s != t) (m * n) (e + f)
  rw [signedQ_mul]
  convert this using 2
  rw [zpow_add₀ (by norm_num)]; push_cast; ring

/-- A sum is the exact one rounded once. -/
theorem add_isNearest (a b : F64) (v w : ℚ) (ha : a.value? = some v) (hb : b.value? = some w) :
    (add a b).IsNearest (v + w) := by
  obtain ⟨s, m, e, hu, rfl⟩ := value?_some ha
  obtain ⟨t, n, f, hu', rfl⟩ := value?_some hb
  simp only [add, hu, hu']
  generalize hg : min e f = g
  obtain ⟨d, hd⟩ := Int.le.dest (show g ≤ e by omega)
  obtain ⟨c, hc⟩ := Int.le.dest (show g ≤ f by omega)
  have hd' : (e - g).toNat = d := by omega
  have hc' : (f - g).toNat = c := by omega
  rw [hd', hc']
  have hsum : signedQ s (m * (2 : ℚ) ^ e) + signedQ t (n * (2 : ℚ) ^ f) =
      ((signed s m * 2 ^ d + signed t n * 2 ^ c : Int) : ℚ) * (2 : ℚ) ^ g := by
    push_cast
    rw [signed_signedQ, signed_signedQ, ← hd, ← hc, zpow_add₀ (by norm_num), zpow_add₀ (by norm_num),
      zpow_natCast, zpow_natCast]
    cases s <;> cases t <;> simp only [signedQ, if_true, if_false, Bool.false_eq_true] <;> ring
  rw [hsum]
  generalize signed s m * 2 ^ d + signed t n * 2 ^ c = z
  split
  · next h =>
    have := round_isNearest (s && t) 0 0
    simp only [round, if_true] at this
    rw [h]
    convert this using 1
    cases (s && t) <;> simp [signedQ]
  · next h =>
    have := round_isNearest (decide (z < 0)) z.natAbs g
    convert this using 1
    have e1 : ((z.natAbs : Nat) : ℚ) = |(z : ℚ)| := by rw [Nat.cast_natAbs]; simp
    rw [e1]
    by_cases hz : z < 0
    · have : (z : ℚ) < 0 := by exact_mod_cast hz
      simp [signedQ, hz, abs_of_neg this]
    · have : (0 : ℚ) ≤ z := by exact_mod_cast not_lt.1 hz
      simp [signedQ, hz, abs_of_nonneg this]

theorem neg_value? (b : F64) (w : ℚ) (hb : b.value? = some w) : (neg b).value? = some (-w) := by
  have h1 : (neg b).msb = !b.msb := by
    simp only [neg, BitVec.msb_xor]; cases b.msb <;> decide
  have h2 : (neg b).toNat % 2 ^ 63 = b.toNat % 2 ^ 63 := by
    simp only [neg, BitVec.toNat_xor]
    rw [Nat.xor_mod_two_pow]; simp
  rw [value?_eq] at hb ⊢
  rw [h2, h1]
  split at hb
  · simp at hb
  · rename_i hk; rw [if_neg hk]
    simp only [Option.some.injEq] at hb ⊢
    rw [← hb]; cases b.msb <;> simp [signedQ]

/-- A difference is the exact one rounded once. -/
theorem sub_isNearest (a b : F64) (v w : ℚ) (ha : a.value? = some v) (hb : b.value? = some w) :
    (sub a b).IsNearest (v - w) := by
  rw [sub_eq_add_neg]; exact add_isNearest _ _ _ _ ha (neg_value? _ _ hb)

/-- A significand has at most 53 bits. -/
theorem unpack_lt {x : F64} {s m e} (h : unpack x = .fin s m e) : m < 2 ^ 53 := by
  simp only [unpack] at h
  split at h
  · split at h <;> cases h
  · split at h <;> cases h <;> omega

/-- A quotient is the exact one rounded once: the bits that `div` keeps and its sticky bit decide the rounding. -/
theorem div_isNearest (a b : F64) (v w : ℚ) (ha : a.value? = some v) (hb : b.value? = some w) (h0 : w ≠ 0) :
    (div a b).IsNearest (v / w) := by
  obtain ⟨s, m, e, hu, rfl⟩ := value?_some ha
  obtain ⟨t, n, f, hu', rfl⟩ := value?_some hb
  have hn : n ≠ 0 := by rintro rfl; apply h0; cases t <;> simp [signedQ]
  have hnb := unpack_lt hu'
  simp only [div, hu, hu', hn, if_false]
  have hq : (0 : ℚ) < n := by exact_mod_cast Nat.pos_of_ne_zero hn
  have hval : signedQ s (m * (2 : ℚ) ^ e) / signedQ t (n * (2 : ℚ) ^ f) =
      signedQ (s != t) ((2 * (m * 2 ^ 120 : Nat) / n : ℚ) * (2 : ℚ) ^ (e - f - 121)) := by
    have : signedQ s (m * (2 : ℚ) ^ e) / signedQ t (n * (2 : ℚ) ^ f) =
        signedQ (s != t) ((m * (2 : ℚ) ^ e) / (n * (2 : ℚ) ^ f)) := by
      cases s <;> cases t <;> simp [signedQ, neg_div, div_neg]
    rw [this]; congr 1
    rw [show e - f - 121 = e + (-f) + (-121) by ring, zpow_add₀ (by norm_num), zpow_add₀ (by norm_num), zpow_neg]
    have h2 : (2 : ℚ) ^ f ≠ 0 := by positivity
    have h3 : ((2 : ℚ) ^ (-121 : Int)) = 1 / 2 ^ 121 := by norm_num
    rw [h3]; push_cast; field_simp; ring
  rw [hval]
  apply round_isNearest'
  generalize hN : m * 2 ^ 120 = N
  have hdm := Nat.div_add_mod' N n
  have hdm' : (N : ℚ) = (N / n : Nat) * n + (N % n : Nat) := by exact_mod_cast hdm.symm
  have hlt := Nat.mod_lt N (Nat.pos_of_ne_zero hn)
  by_cases hr : N % n = 0
  · left
    rw [if_pos hr, hdm', hr]; push_cast; field_simp; ring
  · right
    rw [if_neg hr]
    refine ⟨by omega, ?_, ?_⟩
    · have hm : m ≠ 0 := by rintro rfl; simp at hN; subst hN; simp at hr
      have : 2 ^ 53 ≤ N / n := by
        rw [Nat.le_div_iff_mul_le (Nat.pos_of_ne_zero hn)]
        have : 2 ^ 53 * n ≤ 2 ^ 53 * 2 ^ 53 := Nat.mul_le_mul_left _ hnb.le
        have : 1 * 2 ^ 120 ≤ m * 2 ^ 120 := Nat.mul_le_mul_right _ (Nat.pos_of_ne_zero hm)
        omega
      omega
    · have e1 : (2 * N / n : ℚ) - ((2 * (N / n) + 1 : Nat) : ℚ) = 2 * ((N % n : Nat) / n : ℚ) - 1 := by
        rw [hdm']
        generalize N / n = q
        generalize N % n = r
        push_cast; field_simp; ring
      rw [e1]
      have h1 : (0 : ℚ) < (N % n : Nat) / n := by
        apply div_pos _ hq; exact_mod_cast Nat.pos_of_ne_zero hr
      have h2 : ((N % n : Nat) : ℚ) / n < 1 := (div_lt_one hq).2 (by exact_mod_cast hlt)
      rw [abs_lt]; constructor <;> linarith

end F64
end Sys2Proof
end

