-- ==== Sys2Proof/Laws/Memory.lean ====
section
/-! SUPPORT. The frame buffer: a read after a write, and that every memory operation keeps the canonical form. -/

namespace Sys2Proof.Machine

namespace Memory

@[simp] theorem wfFrom_nil (lo : Nat) : wfFrom lo [] = true := rfl

theorem wfFrom_cons (lo a : Nat) (b : Byte) (rest : Memory) :
    wfFrom lo ((a, b) :: rest) = true ↔ lo ≤ a ∧ a < 1024 ∧ b ≠ 0#8 ∧ wfFrom (a + 1) rest = true := by
  simp [wfFrom, and_assoc]

theorem wfFrom_weaken {lo lo' : Nat} (h : lo' ≤ lo) {m : Memory} (hm : wfFrom lo m = true) :
    wfFrom lo' m = true := by
  cases m with
  | nil => rfl
  | cons c rest =>
    obtain ⟨a, b⟩ := c
    rw [wfFrom_cons] at hm ⊢
    exact ⟨by omega, hm.2⟩

theorem wfFrom_consCell {lo a : Nat} (v : Byte) {rest : Memory} (hlo : lo ≤ a) (ha : a < 1024)
    (hr : wfFrom (a + 1) rest = true) : wfFrom lo (Memory.cons a v rest) = true := by
  unfold Memory.cons
  split
  · exact wfFrom_weaken (by omega) hr
  · rw [wfFrom_cons]; exact ⟨hlo, ha, ‹_›, hr⟩

theorem writeByte_wfFrom {lo a : Nat} (v : Byte) {m : Memory} (hlo : lo ≤ a) (ha : a < 1024)
    (hm : wfFrom lo m = true) : wfFrom lo (m.writeByte a v) = true := by
  induction m generalizing lo with
  | nil => exact wfFrom_consCell v hlo ha rfl
  | cons c rest ih =>
    obtain ⟨k, b⟩ := c
    rw [wfFrom_cons] at hm
    obtain ⟨hk, hk', hb, hr⟩ := hm
    simp only [writeByte]
    split
    · exact wfFrom_consCell v hlo ha ((wfFrom_cons ..).2 ⟨by omega, hk', hb, hr⟩)
    split
    · subst_vars; exact wfFrom_consCell v hlo ha hr
    · rw [wfFrom_cons]; exact ⟨hk, hk', hb, ih (by omega) hr⟩

/-- A write inside the frame buffer keeps the canonical form. -/
theorem writeByte_wf {a : Nat} (v : Byte) {m : Memory} (ha : a < 1024) (hm : m.wf = true) :
    (m.writeByte a v).wf = true := writeByte_wfFrom v (Nat.zero_le a) ha hm

theorem readByte_below {lo a : Nat} {m : Memory} (hm : wfFrom lo m = true) (h : a < lo) : m.readByte a = 0#8 := by
  cases m with
  | nil => rfl
  | cons c rest =>
    obtain ⟨k, b⟩ := c
    rw [wfFrom_cons] at hm
    simp only [readByte]
    rw [if_neg (by omega), if_pos (by omega)]

theorem readByte_consCell {a a' : Nat} (v : Byte) {rest : Memory} (hr : wfFrom (a + 1) rest = true) :
    (Memory.cons a v rest).readByte a' = if a' = a then v else rest.readByte a' := by
  unfold Memory.cons
  split
  · by_cases h : a' = a
    · subst h; rw [if_pos rfl, readByte_below hr (by omega)]; exact (‹v = 0#8›).symm
    · rw [if_neg h]
  · simp only [readByte]
    by_cases h : a' = a
    · rw [if_pos h.symm, if_pos h]
    · rw [if_neg (fun e => h e.symm), if_neg h]
      split
      · exact (readByte_below hr (by omega)).symm
      · rfl

theorem readByte_writeByte_wfFrom {lo a a' : Nat} (v : Byte) {m : Memory} (hm : wfFrom lo m = true) :
    (m.writeByte a v).readByte a' = if a' = a then v else m.readByte a' := by
  induction m generalizing lo with
  | nil => exact readByte_consCell v rfl
  | cons c rest ih =>
    obtain ⟨k, b⟩ := c
    rw [wfFrom_cons] at hm
    obtain ⟨_, hk', hb, hr⟩ := hm
    simp only [writeByte]
    split
    · exact readByte_consCell v ((wfFrom_cons ..).2 ⟨by omega, hk', hb, hr⟩)
    split
    · subst_vars
      rw [readByte_consCell v hr]
      split
      · rfl
      · simp only [readByte]
        rw [if_neg (by omega)]
        split
        · exact readByte_below hr (by omega)
        · rfl
    · simp only [readByte, ih hr]
      by_cases h : k = a'
      · rw [if_pos h, if_neg (by omega), if_pos h]
      · rw [if_neg h, if_neg h]
        by_cases h2 : a' < k
        · rw [if_pos h2, if_pos h2, if_neg (by omega)]
        · rw [if_neg h2, if_neg h2]

/-- A read after a write: the byte written at its address, and every other byte as before. -/
theorem readByte_writeByte {m : Memory} (hm : m.wf = true) (a a' : Nat) (v : Byte) :
    (m.writeByte a v).readByte a' = if a' = a then v else m.readByte a' := readByte_writeByte_wfFrom v hm

@[simp] theorem zero_wf : Memory.zero.wf = true := rfl

@[simp] theorem zero_readByte (a : Nat) : Memory.zero.readByte a = 0#8 := rfl

theorem pixelAddr_lt {x y : Nat} (hx : x < 128) (hy : y < 64) : pixelAddr x y < 1024 := by
  unfold pixelAddr pageAddr; omega

theorem onScreen_iff (x y : Int) : onScreen x y = true ↔ 0 ≤ x ∧ x < 128 ∧ 0 ≤ y ∧ y < 64 := by
  simp [onScreen, and_assoc]

/-- `setPixel` keeps the canonical form. -/
theorem setPixel_wf {m : Memory} (hm : m.wf = true) (x y : Int) : (m.setPixel x y).wf = true := by
  unfold setPixel
  split
  · rename_i h
    rw [onScreen_iff] at h
    exact writeByte_wf _ (pixelAddr_lt (by omega) (by omega)) hm
  · exact hm

theorem decodeFrom_wf {p : Nat} (hp : p < 8) (ds : List Byte) {c : Nat} (hc : c + ds.length ≤ 128) {m : Memory}
    (hm : m.wf = true) : (decodeFrom p c ds m).wf = true := by
  induction ds generalizing c m with
  | nil => exact hm
  | cons d ds ih =>
    simp only [List.length_cons] at hc
    exact ih (by omega) (writeByte_wf d (by unfold pageAddr; omega) hm)

/-- DECODE_PAGE's write keeps the canonical form. -/
theorem decodePage_wf {m : Memory} (hm : m.wf = true) {p : Nat} (hp : p < 8) (d : List Byte) :
    (m.decodePage p d).wf = true := decodeFrom_wf hp _ (by simp) hm

theorem foldl_setPixel_wf (ps : List Vertex) {m : Memory} (hm : m.wf = true) :
    (ps.foldl (fun fb p => fb.setPixel p.x p.y) m).wf = true := by
  induction ps generalizing m with
  | nil => exact hm
  | cons p ps ih => exact ih (setPixel_wf hm p.x p.y)

/-- `drawLine` keeps the canonical form. -/
theorem drawLine_wf {m : Memory} (hm : m.wf = true) (a b : Vertex) : (m.drawLine a b).wf = true :=
  foldl_setPixel_wf _ hm

end Memory

/-- A rendered frame is in the canonical form. -/
theorem triangleImage_wf (t : Triangle) : (triangleImage t).wf = true :=
  Memory.drawLine_wf (Memory.drawLine_wf (Memory.drawLine_wf Memory.zero_wf _ _) _ _) _ _

end Sys2Proof.Machine
end

