-- ==== Sys2Proof/Laws/PerInstr.lean ====
section
/-! SUPPORT. The family CommandLength, one lemma per constructor: a host command's encoding has the length that the
decoder finds from its first three bytes (30_encoding.md R72, R74), and no encoding is empty. -/

namespace Sys2Proof

/-- An opcode in one of the ranges of R78 has no row in the opcode map. -/
theorem opRow?_none_of_range (op : Byte)
    (h : opIn 0x07 0x0F op || opIn 0x14 0x1F op || opIn 0x25 0x2F op || opIn 0x31 0x3F op || opIn 0x44 0x4F op ||
      opIn 0x53 0xFF op) : opRow? op = none := by
  revert op
  decide

namespace Laws.CommandLength

/-- What the family says of one instruction. -/
def Statement (i : Instr) : Prop :=
  ∀ seq : Vector Byte 27, i.wf = true → 0 < (encode seq i).length ∧
    (i.isHost = true → (encode seq i).length =
      commandLength ((encode seq i).getD 0 0) ((encode seq i).getD 1 0) ((encode seq i).getD 2 0))

/-- An illegal opcode is one byte long (R78). -/
theorem illegal {op : Byte} (h : opRow? op = none) : commandLength op 0 0 = 1 := by
  simp only [commandLength, h]

theorem nop : Statement .nop := fun _ _ => ⟨Nat.succ_pos _, fun _ => rfl⟩

theorem addrSet (tag : Byte) (value : U16) : Statement (.addrSet tag value) := fun _ _ => ⟨Nat.succ_pos _, fun _ => rfl⟩

theorem addrGet : Statement .addrGet := fun _ _ => ⟨Nat.succ_pos _, fun _ => rfl⟩

theorem convTo7 : Statement .convTo7 := fun _ _ => ⟨Nat.succ_pos _, fun _ => rfl⟩

theorem convTo8W : Statement .convTo8W := fun _ _ => ⟨Nat.succ_pos _, fun _ => rfl⟩

theorem convTo8R : Statement .convTo8R := fun _ _ => ⟨Nat.succ_pos _, fun _ => rfl⟩

theorem convTo10 : Statement .convTo10 := fun _ _ => ⟨Nat.succ_pos _, fun _ => rfl⟩

theorem sendCmd (b : Byte) : Statement (.sendCmd b) := fun _ _ => ⟨Nat.succ_pos _, fun _ => rfl⟩

theorem sendData (data : List Byte) : Statement (.sendData data) := by
  intro seq h
  simp only [Instr.wf, decide_eq_true_eq] at h
  refine ⟨by simp [encode], fun _ => ?_⟩
  have hl : leNat (leBytes 2 data.length) = data.length := by
    rw [leNat_leBytes]; exact Nat.mod_eq_of_lt (by omega)
  have hd : (encode seq (.sendData data)).length = 3 + data.length := by simp [encode]; omega
  rw [hd]
  exact congrArg (3 + ·) hl.symm

theorem initDisplay : Statement .initDisplay := fun _ _ => ⟨Nat.succ_pos _, fun _ => rfl⟩

theorem clearDisplay : Statement .clearDisplay := fun _ _ => ⟨Nat.succ_pos _, fun _ => rfl⟩

theorem fbZero : Statement .fbZero := fun _ _ => ⟨Nat.succ_pos _, fun _ => rfl⟩

theorem setPixel (x y : U16) : Statement (.setPixel x y) := fun _ _ => ⟨Nat.succ_pos _, fun _ => rfl⟩

theorem encodePage (page : Byte) : Statement (.encodePage page) := fun _ _ => ⟨Nat.succ_pos _, fun _ => rfl⟩

theorem decodePage (page : Byte) (d : List Byte) : Statement (.decodePage page d) := by
  intro seq h
  simp only [Instr.wf, beq_iff_eq] at h
  refine ⟨by simp [encode], fun _ => ?_⟩
  have hl : (encode seq (.decodePage page d)).length = 130 := by simp [encode, h]
  rw [hl]
  rfl

theorem flush : Statement .flush := fun _ _ => ⟨Nat.succ_pos _, fun _ => rfl⟩

theorem drawLine (x0 y0 x1 y1 : U16) : Statement (.drawLine x0 y0 x1 y1) := fun _ _ => ⟨Nat.succ_pos _, fun _ => rfl⟩

theorem triangle (idx : U32) : Statement (.triangle idx) := fun _ _ => ⟨Nat.succ_pos _, fun _ => rfl⟩

theorem drawFrame (idx : U32) : Statement (.drawFrame idx) := fun _ _ => ⟨Nat.succ_pos _, fun _ => rfl⟩

theorem runAnim (duration fps : F64) : Statement (.runAnim duration fps) := fun _ _ => ⟨Nat.succ_pos _, fun _ => rfl⟩

theorem animStatus : Statement .animStatus := fun _ _ => ⟨Nat.succ_pos _, fun _ => rfl⟩

theorem beginSession : Statement .beginSession := fun _ _ => ⟨Nat.succ_pos _, fun _ => rfl⟩

theorem status : Statement .status := fun _ _ => ⟨Nat.succ_pos _, fun _ => rfl⟩

theorem statusClear : Statement .statusClear := fun _ _ => ⟨Nat.succ_pos _, fun _ => rfl⟩

theorem illegal07 (op : Byte) : Statement (.illegal07 op) := by
  intro seq h
  refine ⟨Nat.zero_lt_one, fun _ => (illegal (opRow?_none_of_range op ?_)).symm⟩
  simp only [Instr.wf] at h
  simp [h]

theorem illegal14 (op : Byte) : Statement (.illegal14 op) := by
  intro seq h
  refine ⟨Nat.zero_lt_one, fun _ => (illegal (opRow?_none_of_range op ?_)).symm⟩
  simp only [Instr.wf] at h
  simp [h]

theorem illegal25 (op : Byte) : Statement (.illegal25 op) := by
  intro seq h
  refine ⟨Nat.zero_lt_one, fun _ => (illegal (opRow?_none_of_range op ?_)).symm⟩
  simp only [Instr.wf] at h
  simp [h]

theorem illegal31 (op : Byte) : Statement (.illegal31 op) := by
  intro seq h
  refine ⟨Nat.zero_lt_one, fun _ => (illegal (opRow?_none_of_range op ?_)).symm⟩
  simp only [Instr.wf] at h
  simp [h]

theorem illegal44 (op : Byte) : Statement (.illegal44 op) := by
  intro seq h
  refine ⟨Nat.zero_lt_one, fun _ => (illegal (opRow?_none_of_range op ?_)).symm⟩
  simp only [Instr.wf] at h
  simp [h]

theorem illegal53 (op : Byte) : Statement (.illegal53 op) := by
  intro seq h
  refine ⟨Nat.zero_lt_one, fun _ => (illegal (opRow?_none_of_range op ?_)).symm⟩
  simp only [Instr.wf] at h
  simp [h]

theorem wCmd (cmd : Byte) : Statement (.wCmd cmd) := fun _ _ => ⟨Nat.succ_pos _, fun h => nomatch h⟩

theorem wData (payload : List Byte) : Statement (.wData payload) := by
  intro _ _
  exact ⟨by simp [encode], fun h => nomatch h⟩

theorem ctrlByte (d : Bool) : Statement (.ctrlByte d) := fun _ _ => ⟨Nat.succ_pos _, fun h => nomatch h⟩

theorem pageSelect (p : BitVec 3) : Statement (.pageSelect p) := fun _ _ => ⟨Nat.succ_pos _, fun h => nomatch h⟩

theorem colLow : Statement .colLow := fun _ _ => ⟨Nat.succ_pos _, fun h => nomatch h⟩

theorem colHigh : Statement .colHigh := fun _ _ => ⟨Nat.succ_pos _, fun h => nomatch h⟩

theorem hdr10 (a : BitVec 2) (r : Bool) : Statement (.hdr10 a r) := fun _ _ => ⟨Nat.succ_pos _, fun h => nomatch h⟩

theorem initByte (i : Fin 27) : Statement (.initByte i) := fun _ _ => ⟨Nat.succ_pos _, fun h => nomatch h⟩

end Laws.CommandLength
end Sys2Proof
end

