-- ==== Sys2Proof/Laws/State.lean ====
section
/-! SUPPORT. What each named update of the state does to each field, true by rfl: no later proof unfolds a record
update. -/

namespace Sys2Proof.Machine

@[simp] theorem respond_addr (f : List Byte) (s : State) : (respond f s).addr = s.addr := rfl
@[simp] theorem respond_status (f : List Byte) (s : State) : (respond f s).status = s.status := rfl
@[simp] theorem respond_anim (f : List Byte) (s : State) : (respond f s).anim = s.anim := rfl
@[simp] theorem respond_fb (f : List Byte) (s : State) : (respond f s).fb = s.fb := rfl
@[simp] theorem respond_framer (f : List Byte) (s : State) : (respond f s).framer = s.framer := rfl
@[simp] theorem respond_seq (f : List Byte) (s : State) : (respond f s).seq = s.seq := rfl
@[simp] theorem respond_port (f : List Byte) (s : State) : (respond f s).port = { s.port with busy := false } := rfl
@[simp] theorem respond_trace (f : List Byte) (s : State) : (respond f s).trace = s.trace := rfl
@[simp] theorem respond_responses (f : List Byte) (s : State) : (respond f s).responses = s.responses ++ [f] := rfl
@[simp] theorem respond_transport (f : List Byte) (s : State) : (respond f s).transport = s.transport := rfl
@[simp] theorem respond_resetIn (f : List Byte) (s : State) : (respond f s).resetIn = s.resetIn := rfl
@[simp] theorem respond_params (f : List Byte) (s : State) : (respond f s).params = s.params := rfl

@[simp] theorem raiseFault_addr (c : FaultCode) (s : State) : (raiseFault c s).addr = s.addr := rfl
@[simp] theorem raiseFault_status (c : FaultCode) (s : State) : (raiseFault c s).status = s.status := rfl
@[simp] theorem raiseFault_anim (c : FaultCode) (s : State) : (raiseFault c s).anim = s.anim := rfl
@[simp] theorem raiseFault_fb (c : FaultCode) (s : State) : (raiseFault c s).fb = s.fb := rfl
@[simp] theorem raiseFault_framer (c : FaultCode) (s : State) : (raiseFault c s).framer = s.framer := rfl
@[simp] theorem raiseFault_seq (c : FaultCode) (s : State) : (raiseFault c s).seq = s.seq := rfl
@[simp] theorem raiseFault_port (c : FaultCode) (s : State) :
    (raiseFault c s).port = { s.port with busy := false } := rfl
@[simp] theorem raiseFault_trace (c : FaultCode) (s : State) : (raiseFault c s).trace = s.trace := rfl
@[simp] theorem raiseFault_responses (c : FaultCode) (s : State) :
    (raiseFault c s).responses = s.responses ++ [[c.byte]] := rfl
@[simp] theorem raiseFault_transport (c : FaultCode) (s : State) : (raiseFault c s).transport = s.transport := rfl
@[simp] theorem raiseFault_resetIn (c : FaultCode) (s : State) : (raiseFault c s).resetIn = s.resetIn := rfl
@[simp] theorem raiseFault_params (c : FaultCode) (s : State) : (raiseFault c s).params = s.params := rfl

@[simp] theorem transfer_addr (b : List Byte) (s : State) : (transfer b s).2.addr = s.addr := rfl
@[simp] theorem transfer_status (b : List Byte) (s : State) :
    (transfer b s).2.status = s.status.record s.transport.answer := rfl
@[simp] theorem transfer_anim (b : List Byte) (s : State) : (transfer b s).2.anim = s.anim := rfl
@[simp] theorem transfer_fb (b : List Byte) (s : State) : (transfer b s).2.fb = s.fb := rfl
@[simp] theorem transfer_framer (b : List Byte) (s : State) : (transfer b s).2.framer = s.framer := rfl
@[simp] theorem transfer_seq (b : List Byte) (s : State) : (transfer b s).2.seq = s.seq := rfl
@[simp] theorem transfer_port (b : List Byte) (s : State) : (transfer b s).2.port = s.port := rfl
@[simp] theorem transfer_trace (b : List Byte) (s : State) :
    (transfer b s).2.trace = s.trace ++ [.xfer s.addr b s.transport.answer] := rfl
@[simp] theorem transfer_responses (b : List Byte) (s : State) : (transfer b s).2.responses = s.responses := rfl
@[simp] theorem transfer_transport (b : List Byte) (s : State) :
    (transfer b s).2.transport = s.transport.advance := rfl
@[simp] theorem transfer_resetIn (b : List Byte) (s : State) : (transfer b s).2.resetIn = s.resetIn := rfl
@[simp] theorem transfer_params (b : List Byte) (s : State) : (transfer b s).2.params = s.params := rfl
@[simp] theorem transfer_ok (b : List Byte) (s : State) : (transfer b s).1 = s.transport.answer := rfl

@[simp] theorem delayEvent_addr (t : F64) (s : State) : (delayEvent t s).addr = s.addr := rfl
@[simp] theorem delayEvent_status (t : F64) (s : State) : (delayEvent t s).status = s.status := rfl
@[simp] theorem delayEvent_anim (t : F64) (s : State) : (delayEvent t s).anim = s.anim := rfl
@[simp] theorem delayEvent_fb (t : F64) (s : State) : (delayEvent t s).fb = s.fb := rfl
@[simp] theorem delayEvent_framer (t : F64) (s : State) : (delayEvent t s).framer = s.framer := rfl
@[simp] theorem delayEvent_seq (t : F64) (s : State) : (delayEvent t s).seq = s.seq := rfl
@[simp] theorem delayEvent_port (t : F64) (s : State) : (delayEvent t s).port = s.port := rfl
@[simp] theorem delayEvent_trace (t : F64) (s : State) : (delayEvent t s).trace = s.trace ++ [.delay t] := rfl
@[simp] theorem delayEvent_responses (t : F64) (s : State) : (delayEvent t s).responses = s.responses := rfl
@[simp] theorem delayEvent_transport (t : F64) (s : State) : (delayEvent t s).transport = s.transport := rfl
@[simp] theorem delayEvent_resetIn (t : F64) (s : State) : (delayEvent t s).resetIn = s.resetIn := rfl
@[simp] theorem delayEvent_params (t : F64) (s : State) : (delayEvent t s).params = s.params := rfl

@[simp] theorem renderFrame_addr (g : Trig) (i : U32) (s : State) :
    (renderFrame g i s).addr = s.addr := rfl
@[simp] theorem renderFrame_status (g : Trig) (i : U32) (s : State) :
    (renderFrame g i s).status = s.status := rfl
@[simp] theorem renderFrame_anim (g : Trig) (i : U32) (s : State) :
    (renderFrame g i s).anim = s.anim := rfl
@[simp] theorem renderFrame_fb (g : Trig) (i : U32) (s : State) :
    (renderFrame g i s).fb = triangleImage (triangleOf g s.params.baseAngle i) := rfl
@[simp] theorem renderFrame_framer (g : Trig) (i : U32) (s : State) :
    (renderFrame g i s).framer = s.framer := rfl
@[simp] theorem renderFrame_seq (g : Trig) (i : U32) (s : State) :
    (renderFrame g i s).seq = s.seq := rfl
@[simp] theorem renderFrame_port (g : Trig) (i : U32) (s : State) :
    (renderFrame g i s).port = s.port := rfl
@[simp] theorem renderFrame_trace (g : Trig) (i : U32) (s : State) :
    (renderFrame g i s).trace = s.trace := rfl
@[simp] theorem renderFrame_responses (g : Trig) (i : U32) (s : State) :
    (renderFrame g i s).responses = s.responses := rfl
@[simp] theorem renderFrame_transport (g : Trig) (i : U32) (s : State) :
    (renderFrame g i s).transport = s.transport := rfl
@[simp] theorem renderFrame_resetIn (g : Trig) (i : U32) (s : State) :
    (renderFrame g i s).resetIn = s.resetIn := rfl
@[simp] theorem renderFrame_params (g : Trig) (i : U32) (s : State) : (renderFrame g i s).params = s.params := rfl

@[simp] theorem startRun_addr (n : U32) (fps : F64) (s : State) : (startRun n fps s).addr = s.addr := rfl
@[simp] theorem startRun_status (n : U32) (fps : F64) (s : State) : (startRun n fps s).status = s.status := rfl
@[simp] theorem startRun_anim (n : U32) (fps : F64) (s : State) :
    (startRun n fps s).anim = { state := .rendering, index := 0, count := n, delay := frameDelay fps } := rfl
@[simp] theorem startRun_fb (n : U32) (fps : F64) (s : State) : (startRun n fps s).fb = s.fb := rfl
@[simp] theorem startRun_framer (n : U32) (fps : F64) (s : State) : (startRun n fps s).framer = s.framer := rfl
@[simp] theorem startRun_seq (n : U32) (fps : F64) (s : State) : (startRun n fps s).seq = s.seq := rfl
@[simp] theorem startRun_port (n : U32) (fps : F64) (s : State) : (startRun n fps s).port = s.port := rfl
@[simp] theorem startRun_trace (n : U32) (fps : F64) (s : State) : (startRun n fps s).trace = s.trace := rfl
@[simp] theorem startRun_responses (n : U32) (fps : F64) (s : State) :
    (startRun n fps s).responses = s.responses := rfl
@[simp] theorem startRun_transport (n : U32) (fps : F64) (s : State) :
    (startRun n fps s).transport = s.transport := rfl
@[simp] theorem startRun_resetIn (n : U32) (fps : F64) (s : State) : (startRun n fps s).resetIn = s.resetIn := rfl
@[simp] theorem startRun_params (n : U32) (fps : F64) (s : State) : (startRun n fps s).params = s.params := rfl

@[simp] theorem nextFrame_addr (s : State) : (nextFrame s).addr = s.addr := rfl
@[simp] theorem nextFrame_status (s : State) : (nextFrame s).status = s.status := rfl
@[simp] theorem nextFrame_anim (s : State) : (nextFrame s).anim = { s.anim with index := s.anim.index + 1 } := rfl
@[simp] theorem nextFrame_fb (s : State) : (nextFrame s).fb = s.fb := rfl
@[simp] theorem nextFrame_framer (s : State) : (nextFrame s).framer = s.framer := rfl
@[simp] theorem nextFrame_seq (s : State) : (nextFrame s).seq = s.seq := rfl
@[simp] theorem nextFrame_port (s : State) : (nextFrame s).port = s.port := rfl
@[simp] theorem nextFrame_trace (s : State) : (nextFrame s).trace = s.trace := rfl
@[simp] theorem nextFrame_responses (s : State) : (nextFrame s).responses = s.responses := rfl
@[simp] theorem nextFrame_transport (s : State) : (nextFrame s).transport = s.transport := rfl
@[simp] theorem nextFrame_resetIn (s : State) : (nextFrame s).resetIn = s.resetIn := rfl
@[simp] theorem nextFrame_params (s : State) : (nextFrame s).params = s.params := rfl

@[simp] theorem endRun_addr (s : State) : (endRun s).addr = s.addr := rfl
@[simp] theorem endRun_status (s : State) : (endRun s).status = s.status := rfl
@[simp] theorem endRun_anim (s : State) : (endRun s).anim = { s.anim with state := .done } := rfl
@[simp] theorem endRun_fb (s : State) : (endRun s).fb = s.fb := rfl
@[simp] theorem endRun_framer (s : State) : (endRun s).framer = s.framer := rfl
@[simp] theorem endRun_seq (s : State) : (endRun s).seq = s.seq := rfl
@[simp] theorem endRun_port (s : State) : (endRun s).port = s.port := rfl
@[simp] theorem endRun_trace (s : State) : (endRun s).trace = s.trace := rfl
@[simp] theorem endRun_responses (s : State) : (endRun s).responses = s.responses := rfl
@[simp] theorem endRun_transport (s : State) : (endRun s).transport = s.transport := rfl
@[simp] theorem endRun_resetIn (s : State) : (endRun s).resetIn = s.resetIn := rfl
@[simp] theorem endRun_params (s : State) : (endRun s).params = s.params := rfl

@[simp] theorem loadWires_addr (ws : List Wire) (r : Reply) (s : State) : (loadWires ws r s).addr = s.addr := rfl
@[simp] theorem loadWires_status (ws : List Wire) (r : Reply) (s : State) :
    (loadWires ws r s).status = s.status := rfl
@[simp] theorem loadWires_anim (ws : List Wire) (r : Reply) (s : State) : (loadWires ws r s).anim = s.anim := rfl
@[simp] theorem loadWires_fb (ws : List Wire) (r : Reply) (s : State) : (loadWires ws r s).fb = s.fb := rfl
@[simp] theorem loadWires_framer (ws : List Wire) (r : Reply) (s : State) :
    (loadWires ws r s).framer = s.framer := rfl
@[simp] theorem loadWires_seq (ws : List Wire) (r : Reply) (s : State) :
    (loadWires ws r s).seq = { pending := ws, phase := .idle, nfail := 0, reply := r } := rfl
@[simp] theorem loadWires_port (ws : List Wire) (r : Reply) (s : State) : (loadWires ws r s).port = s.port := rfl
@[simp] theorem loadWires_trace (ws : List Wire) (r : Reply) (s : State) : (loadWires ws r s).trace = s.trace := rfl
@[simp] theorem loadWires_responses (ws : List Wire) (r : Reply) (s : State) :
    (loadWires ws r s).responses = s.responses := rfl
@[simp] theorem loadWires_transport (ws : List Wire) (r : Reply) (s : State) :
    (loadWires ws r s).transport = s.transport := rfl
@[simp] theorem loadWires_resetIn (ws : List Wire) (r : Reply) (s : State) :
    (loadWires ws r s).resetIn = s.resetIn := rfl
@[simp] theorem loadWires_params (ws : List Wire) (r : Reply) (s : State) : (loadWires ws r s).params = s.params := rfl

@[simp] theorem loadRun_addr (n : U32) (fps : F64) (s : State) : (loadRun n fps s).addr = s.addr := rfl
@[simp] theorem loadRun_status (n : U32) (fps : F64) (s : State) : (loadRun n fps s).status = s.status := rfl
@[simp] theorem loadRun_anim (n : U32) (fps : F64) (s : State) :
    (loadRun n fps s).anim = { state := .rendering, index := 0, count := n, delay := frameDelay fps } := rfl
@[simp] theorem loadRun_fb (n : U32) (fps : F64) (s : State) : (loadRun n fps s).fb = s.fb := rfl
@[simp] theorem loadRun_framer (n : U32) (fps : F64) (s : State) : (loadRun n fps s).framer = s.framer := rfl
@[simp] theorem loadRun_seq (n : U32) (fps : F64) (s : State) :
    (loadRun n fps s).seq = { pending := [], phase := .render, nfail := 0, reply := .anim } := rfl
@[simp] theorem loadRun_port (n : U32) (fps : F64) (s : State) : (loadRun n fps s).port = s.port := rfl
@[simp] theorem loadRun_trace (n : U32) (fps : F64) (s : State) : (loadRun n fps s).trace = s.trace := rfl
@[simp] theorem loadRun_responses (n : U32) (fps : F64) (s : State) :
    (loadRun n fps s).responses = s.responses := rfl
@[simp] theorem loadRun_transport (n : U32) (fps : F64) (s : State) :
    (loadRun n fps s).transport = s.transport := rfl
@[simp] theorem loadRun_resetIn (n : U32) (fps : F64) (s : State) : (loadRun n fps s).resetIn = s.resetIn := rfl
@[simp] theorem loadRun_params (n : U32) (fps : F64) (s : State) : (loadRun n fps s).params = s.params := rfl

@[simp] theorem accept_addr (rest : List Byte) (s : State) : (accept rest s).addr = s.addr := rfl
@[simp] theorem accept_status (rest : List Byte) (s : State) : (accept rest s).status = s.status := rfl
@[simp] theorem accept_anim (rest : List Byte) (s : State) : (accept rest s).anim = s.anim := rfl
@[simp] theorem accept_fb (rest : List Byte) (s : State) : (accept rest s).fb = s.fb := rfl
@[simp] theorem accept_framer (rest : List Byte) (s : State) : (accept rest s).framer = s.framer := rfl
@[simp] theorem accept_seq (rest : List Byte) (s : State) : (accept rest s).seq = s.seq := rfl
@[simp] theorem accept_port (rest : List Byte) (s : State) :
    (accept rest s).port = { rx := [], busy := true, incoming := rest } := rfl
@[simp] theorem accept_trace (rest : List Byte) (s : State) : (accept rest s).trace = s.trace := rfl
@[simp] theorem accept_responses (rest : List Byte) (s : State) : (accept rest s).responses = s.responses := rfl
@[simp] theorem accept_transport (rest : List Byte) (s : State) : (accept rest s).transport = s.transport := rfl
@[simp] theorem accept_resetIn (rest : List Byte) (s : State) : (accept rest s).resetIn = s.resetIn := rfl
@[simp] theorem accept_params (rest : List Byte) (s : State) : (accept rest s).params = s.params := rfl

@[simp] theorem owing_addr (s t : State) : (owing s t).addr = t.addr := rfl
@[simp] theorem owing_status (s t : State) : (owing s t).status = t.status := rfl
@[simp] theorem owing_anim (s t : State) : (owing s t).anim = t.anim := rfl
@[simp] theorem owing_fb (s t : State) : (owing s t).fb = t.fb := rfl
@[simp] theorem owing_framer (s t : State) : (owing s t).framer = t.framer := rfl
@[simp] theorem owing_seq (s t : State) :
    (owing s t).seq = { s.seq with reply := .frame (t.responses.getLast?.getD []) } := rfl
@[simp] theorem owing_port (s t : State) : (owing s t).port = s.port := rfl
@[simp] theorem owing_trace (s t : State) : (owing s t).trace = t.trace := rfl
@[simp] theorem owing_responses (s t : State) : (owing s t).responses = s.responses := rfl
@[simp] theorem owing_transport (s t : State) : (owing s t).transport = t.transport := rfl
@[simp] theorem owing_resetIn (s t : State) : (owing s t).resetIn = t.resetIn := rfl
@[simp] theorem owing_params (s t : State) : (owing s t).params = t.params := rfl

/-- A command that answers `f` and otherwise makes `u` of `s` owes `f`. -/
theorem owing_respond (f : List Byte) (s u : State) (h : u.responses = s.responses) (hp : u.port = s.port) :
    owing s (respond f u) = { u with seq := { s.seq with reply := .frame f } } := by
  cases u
  simp_all [owing, respond]

@[simp] theorem receive_addr (s : State) : (receive s).addr = s.addr := rfl
@[simp] theorem receive_status (s : State) : (receive s).status = s.status := rfl
@[simp] theorem receive_anim (s : State) : (receive s).anim = s.anim := rfl
@[simp] theorem receive_fb (s : State) : (receive s).fb = s.fb := rfl
@[simp] theorem receive_framer (s : State) : (receive s).framer = s.framer := rfl
@[simp] theorem receive_seq (s : State) : (receive s).seq = s.seq := rfl
@[simp] theorem receive_port (s : State) :
    (receive s).port = { s.port with rx := s.port.rx ++ s.port.incoming, incoming := [] } := rfl
@[simp] theorem receive_trace (s : State) : (receive s).trace = s.trace := rfl
@[simp] theorem receive_responses (s : State) : (receive s).responses = s.responses := rfl
@[simp] theorem receive_transport (s : State) : (receive s).transport = s.transport := rfl
@[simp] theorem receive_resetIn (s : State) : (receive s).resetIn = s.resetIn := rfl
@[simp] theorem receive_params (s : State) : (receive s).params = s.params := rfl

@[simp] theorem deliver_addr (bs : List Byte) (s : State) : (deliver bs s).addr = s.addr := rfl
@[simp] theorem deliver_status (bs : List Byte) (s : State) : (deliver bs s).status = s.status := rfl
@[simp] theorem deliver_anim (bs : List Byte) (s : State) : (deliver bs s).anim = s.anim := rfl
@[simp] theorem deliver_fb (bs : List Byte) (s : State) : (deliver bs s).fb = s.fb := rfl
@[simp] theorem deliver_framer (bs : List Byte) (s : State) : (deliver bs s).framer = s.framer := rfl
@[simp] theorem deliver_seq (bs : List Byte) (s : State) : (deliver bs s).seq = s.seq := rfl
@[simp] theorem deliver_port (bs : List Byte) (s : State) :
    (deliver bs s).port = { rx := [], busy := false, incoming := bs } := rfl
@[simp] theorem deliver_trace (bs : List Byte) (s : State) : (deliver bs s).trace = s.trace := rfl
@[simp] theorem deliver_responses (bs : List Byte) (s : State) : (deliver bs s).responses = s.responses := rfl
@[simp] theorem deliver_transport (bs : List Byte) (s : State) : (deliver bs s).transport = s.transport := rfl
@[simp] theorem deliver_resetIn (bs : List Byte) (s : State) : (deliver bs s).resetIn = none := rfl
@[simp] theorem deliver_params (bs : List Byte) (s : State) : (deliver bs s).params = s.params := rfl

@[simp] theorem takeReset_addr (s : State) : (takeReset s).addr = .sevenBit 0x3C#8 := rfl
@[simp] theorem takeReset_status (s : State) : (takeReset s).status = { lastOk := true, failCnt := 0 } := rfl
@[simp] theorem takeReset_anim (s : State) :
    (takeReset s).anim = { state := .idle, index := 0, count := 0, delay := 0 } := rfl
@[simp] theorem takeReset_fb (s : State) : (takeReset s).fb = [] := rfl
@[simp] theorem takeReset_framer (s : State) : (takeReset s).framer = .idle := rfl
@[simp] theorem takeReset_seq (s : State) : (takeReset s).seq = Seq.idle := rfl
@[simp] theorem takeReset_port (s : State) :
    (takeReset s).port = { rx := [], busy := false, incoming := s.port.incoming } := rfl
@[simp] theorem takeReset_trace (s : State) : (takeReset s).trace = [] := rfl
@[simp] theorem takeReset_responses (s : State) : (takeReset s).responses = [] := rfl
@[simp] theorem takeReset_transport (s : State) : (takeReset s).transport = s.transport := rfl
@[simp] theorem takeReset_resetIn (s : State) : (takeReset s).resetIn = none := rfl
@[simp] theorem takeReset_params (s : State) : (takeReset s).params = s.params := rfl

end Sys2Proof.Machine
end

