-- ==== Sys2Proof/Laws/Transfers.lean ====
section
/-! SUPPORT. What a list of transfers does to the state, said once in the terms of Safety.lean: the commands that
transfer are proved from it. -/

namespace Sys2Proof.Machine

/-- `Respond` in the terms of Safety.lean. -/
theorem respond_eq (f : List Byte) (s : State) : respond f s = s.answered f := rfl

/-- A fault is a one-byte response (R241). -/
theorem raiseFault_eq (c : FaultCode) (s : State) : raiseFault c s = s.answered [c.byte] := rfl

theorem Transport.answerAt_zero (t : Transport) : t.answerAt 0 = t.answer := by
  unfold Transport.answerAt Transport.answer
  cases t.queue <;> simp

theorem Transport.answerAt_succ (t : Transport) (k : Nat) : t.answerAt (k + 1) = t.advance.answerAt k := by
  unfold Transport.answerAt Transport.advance
  rw [show t.drawn + (k + 1) = t.drawn + 1 + k by omega]
  cases t.queue <;> simp

theorem Transport.answers_succ (t : Transport) (n : Nat) :
    t.answers (n + 1) = t.answer :: t.advance.answers n := by
  simp [Transport.answers, List.range_succ_eq_map, Transport.answerAt_zero, Function.comp_def,
    Transport.answerAt_succ]

@[simp] theorem Transport.answers_zero (t : Transport) : t.answers 0 = [] := rfl

@[simp] theorem Transport.answers_length (t : Transport) (n : Nat) : (t.answers n).length = n := by
  simp [Transport.answers]

theorem Transport.after_zero (t : Transport) : t.after 0 = t := rfl

theorem Transport.after_succ (t : Transport) (n : Nat) : t.after (n + 1) = t.advance.after n := by
  unfold Transport.after Transport.advance
  cases t.queue <;> simp <;> omega

theorem satAdd32_zero (v : U32) : satAdd32 v 0 = v := by
  apply BitVec.eq_of_toNat_eq
  have := v.isLt
  simp only [satAdd32, BitVec.toNat_ofNat]
  omega

theorem Status.after_nil (st : Status) : st.after [] = st := by
  have h : BitVec.ofNat 32 (min (st.failCnt.toNat + 0) 0xFFFFFFFF) = st.failCnt := satAdd32_zero st.failCnt
  cases st
  simpa [Status.after] using h

theorem Status.after_cons (st : Status) (ok : Bool) (oks : List Bool) :
    st.after (ok :: oks) = (st.record ok).after oks := by
  have hv := st.failCnt.isLt
  have hl : ((ok :: oks).getLast?).getD st.lastOk = (oks.getLast?).getD ok := by
    cases oks <;> simp [List.getLast?_cons]
  have hc : BitVec.ofNat 32 (min (st.failCnt.toNat + (ok :: oks).count false) 0xFFFFFFFF) =
      BitVec.ofNat 32 (min ((st.record ok).failCnt.toNat + oks.count false) 0xFFFFFFFF) := by
    cases ok
    · simp only [Status.record, List.count_cons_self, satAdd32]
      congr 1
      simp only [Bool.false_eq_true, if_false, BitVec.toNat_ofNat]
      omega
    · simp [Status.record]
  unfold Status.after
  rw [hl, hc]
  rfl

/-- One transfer in the terms of Safety.lean. -/
theorem transfer_eq (bs : List Byte) (s : State) : transfer bs s = (s.transport.answerAt 0, s.sent [bs]) := by
  unfold transfer State.sent
  rw [Transport.answerAt_zero]
  simp only [List.length_singleton, Transport.answers_succ, Transport.answers_zero, Transport.after_succ,
    Transport.after_zero, xferEvents, List.zipWith_cons_cons, List.zipWith_nil_left, Status.after_cons,
    Status.after_nil]

/-- Transfers one after another are the transfers of the joined list. -/
theorem State.sent_cons (s : State) (bs : List Byte) (rest : List (List Byte)) :
    (s.sent [bs]).sent rest = s.sent (bs :: rest) := by
  unfold State.sent
  simp only [List.length_cons, List.length_nil, Nat.zero_add, Transport.answers_succ, Transport.answers_zero,
    Transport.after_succ, Transport.after_zero, xferEvents, List.zipWith_cons_cons, List.zipWith_nil_left,
    Status.after_cons, Status.after_nil, List.append_assoc, List.singleton_append]

theorem State.sent_nil (s : State) : s.sent [] = s := by
  unfold State.sent
  simp [xferEvents, Transport.after_zero, Status.after_nil]

/-- `sendAll` in the terms of Safety.lean: `nfail` counts the false answers, and the state is that after the transfers. -/
theorem sendAll_eq (ws : List Wire) (s : State) :
    sendAll ws s = (s.failures ws.length, s.sent (ws.map Wire.bytes)) := by
  induction ws generalizing s with
  | nil => simp [sendAll, State.failures, State.sent_nil]
  | cons w ws ih =>
    have hf : s.failures (ws.length + 1) =
        (s.sent [w.bytes]).failures ws.length + (if s.transport.answerAt 0 then 0 else 1) := by
      unfold State.failures State.sent
      simp only [Transport.answers_succ, List.count_cons, Transport.answerAt_zero, List.length_singleton,
        Transport.after_succ, Transport.after_zero]
      cases s.transport.answer <;> simp
    simp only [sendAll, ih, transfer_eq, List.length_cons, List.map_cons, State.sent_cons, hf]

/-- A composite command in the terms of Safety.lean. -/
theorem sendAndCount_eq (ws : List Wire) (s : State) :
    sendAndCount ws s =
      (s.sent (ws.map Wire.bytes)).answered [0x00#8, BitVec.ofNat 8 (s.failures ws.length)] := by
  unfold sendAndCount
  rw [sendAll_eq]
  rfl

/-- A primitive transfer in the terms of Safety.lean. -/
theorem sendAndReport_eq (w : Wire) (s : State) :
    sendAndReport w s =
      (s.sent [w.bytes]).answered [0x00#8, if s.transport.answerAt 0 then 0x01#8 else 0x00#8] := by
  unfold sendAndReport
  rw [transfer_eq]
  rfl

end Sys2Proof.Machine
end

