-- ==== Sys2Proof/Tests/Slice0.lean ====
section
/-! SUPPORT. Tests of the model, each about one decoding or one step. Expected values come from spec/95_test_vectors.md or
are worked by hand from the rule named. After them, for every obligation with hypotheses, concrete inputs that meet them
all. -/

namespace Sys2Proof.Tests

open Sys2Proof Sys2Proof.Machine

/-! ### Helpers -/

/-- The next state of an outcome. -/
def nextOf : Result → Option State
  | .next s => some s
  | .fault _ => none
  | .refused _ => none

/-- The fault of an outcome. -/
def faultOf : Result → Option Fault
  | .next _ => none
  | .fault f => some f
  | .refused _ => none

/-- The frame count that a validation gives. -/
def frameCountOf : Except FaultCode U32 → Option U32
  | .ok n => some n
  | .error _ => none

/-- The fault that a validation gives. -/
def faultCodeOf : Except FaultCode U32 → Option FaultCode
  | .ok _ => none
  | .error c => some c

/-- The responses emitted from reset. -/
def answersOf (r : Result) : Option (List (List Byte)) := (nextOf r).map (·.responses)

/-- The trace from reset. -/
def traceOf (r : Result) : Option (List Event) := (nextOf r).map (·.trace)

/-- `STATUS` after. -/
def statusOf (r : Result) : Option Status := (nextOf r).map (·.status)

/-- Reset, with the Transport's first answers fixed. -/
def withAnswers (oks : List Bool) : State := { State.reset with transport := { queue := oks, drawn := 0 } }

/-- Reset, with another address. -/
def withAddr (a : Address) : State := { State.reset with addr := a }

/-- Reset, with bytes on the port. -/
def withBytes (bs : List Byte) : State := { State.reset with port := { rx := [], busy := false, incoming := bs } }

/-- Reset, with another frame buffer. -/
def withFb (m : Memory) : State := { State.reset with fb := m }

/-- Reset, with other parameters. -/
def withParams (p : Params) : State := { State.reset with params := p }

/-- Parameters other than the defaults: the bytes that R133 demands behind 22 times 0x5A, RAW, and a base angle of
1.0. -/
def otherParams : Params :=
  ⟨Vector.replicate 22 0x5A#8 ++ #v[0x81#8, 0x7F#8, 0x8D#8, 0x14#8, 0xAF#8], .raw, 0x3FF0000000000000#64⟩

/-- The values the platform's libm gives at the arguments that frame 45 asks for, whose angle is 1.5707963267948966. -/
def frameFortyFiveTrig : Trig where
  sin x :=
    if x = 0x3FF921FB54442D18#64 then 0x3FF0000000000000#64
    else if x = F64.theta0 then 0xBFF0000000000000#64
    else if x = 4607394977673999206#64 then 4605975682916830379#64
    else 4605975682916830380#64
  cos x :=
    if x = 0x3FF921FB54442D18#64 then 0x3C91A62633145C07#64
    else if x = F64.theta0 then 0x3C91A62633145C07#64
    else if x = 4607394977673999206#64 then 4602678819172646910#64
    else 13826050856027422713#64

/-- The values the platform's libm gives at the arguments that frame 0 asks for (95_test_vectors.md V-AN, frame 0). -/
def frameZeroTrig : Trig where
  sin x :=
    if x = 0#64 then 0#64
    else if x = F64.theta0 then 0xBFF0000000000000#64
    else if x = 4607394977673999206#64 then 4605975682916830379#64
    else 4605975682916830380#64
  cos x :=
    if x = 0#64 then 0x3FF0000000000000#64
    else if x = F64.theta0 then 0x3C91A62633145C07#64
    else if x = 4607394977673999206#64 then 4602678819172646910#64
    else 13826050856027422713#64

/-! ### WellFormed: an ill-formed term for each check -/

theorem test_wf_sendData_too_long : (Instr.sendData (List.replicate 65536 0#8)).wf = false := by
  simp only [Instr.wf, List.length_replicate]; rfl
theorem test_wf_sendData_longest : (Instr.sendData (List.replicate 65535 0#8)).wf = true := by
  simp only [Instr.wf, List.length_replicate]; rfl
theorem test_wf_wData_too_long : (Instr.wData (List.replicate 65536 0#8)).wf = false := by
  simp only [Instr.wf, List.length_replicate]; rfl
theorem test_wf_decodePage_short : (Instr.decodePage 0#8 (List.replicate 127 0#8)).wf = false := by decide +kernel
theorem test_wf_decodePage_long : (Instr.decodePage 0#8 (List.replicate 129 0#8)).wf = false := by decide +kernel
theorem test_wf_illegal07 : (Instr.illegal07 0x06#8).wf = false ∧ (Instr.illegal07 0x10#8).wf = false := by decide
theorem test_wf_illegal14 : (Instr.illegal14 0x13#8).wf = false ∧ (Instr.illegal14 0x20#8).wf = false := by decide
theorem test_wf_illegal25 : (Instr.illegal25 0x24#8).wf = false ∧ (Instr.illegal25 0x30#8).wf = false := by decide
theorem test_wf_illegal31 : (Instr.illegal31 0x30#8).wf = false ∧ (Instr.illegal31 0x40#8).wf = false := by decide
theorem test_wf_illegal44 : (Instr.illegal44 0x43#8).wf = false ∧ (Instr.illegal44 0x50#8).wf = false := by decide
theorem test_wf_illegal53 : (Instr.illegal53 0x52#8).wf = false ∧ (Instr.illegal53 0xFF#8).wf = true := by decide

/-! ### Decode: words written out from R71, R72 and R85 to R91 -/

theorem test_decode_codec :
    decodeHost [0x00#8] = .command .nop [] ∧
    decodeHost [0x01#8, 0x03#8, 0xA5#8, 0x02#8] = .command (.addrSet 3#8 0x02A5#16) [] ∧
    decodeHost [0x02#8] = .command .addrGet [] ∧
    decodeHost [0x03#8] = .command .convTo7 [] ∧
    decodeHost [0x04#8] = .command .convTo8W [] ∧
    decodeHost [0x05#8] = .command .convTo8R [] ∧
    decodeHost [0x06#8] = .command .convTo10 [] := by decide

theorem test_decode_framer :
    decodeHost [0x10#8, 0xAF#8] = .command (.sendCmd 0xAF#8) [] ∧
    decodeHost [0x11#8, 0x03#8, 0x00#8, 0xAA#8, 0xBB#8, 0xCC#8] =
      .command (.sendData [0xAA#8, 0xBB#8, 0xCC#8]) [] ∧
    decodeHost [0x12#8] = .command .initDisplay [] ∧
    decodeHost [0x13#8] = .command .clearDisplay [] := by decide

theorem test_decode_frame_buffer :
    decodeHost [0x20#8] = .command .fbZero [] ∧
    decodeHost [0x21#8, 0xFF#8, 0xFF#8, 0x05#8, 0x00#8] = .command (.setPixel 0xFFFF#16 5#16) [] ∧
    decodeHost [0x22#8, 0x08#8] = .command (.encodePage 8#8) [] ∧
    decodeHost [0x24#8] = .command .flush [] ∧
    decodeHost [0x30#8, 0x02#8, 0x00#8, 0x01#8, 0x00#8, 0xFD#8, 0xFF#8, 0x00#8, 0x80#8] =
      .command (.drawLine 2#16 1#16 0xFFFD#16 0x8000#16) [] := by decide

theorem test_decode_decodePage :
    decodeHost ([0x23#8, 0x02#8, 0x01#8] ++ List.replicate 127 0x00#8 ++ [0x51#8]) =
      .command (.decodePage 2#8 (0x01#8 :: List.replicate 127 0x00#8)) [0x51#8] := by decide +kernel

theorem test_decode_animation :
    decodeHost [0x40#8, 0xB3#8, 0x00#8, 0x00#8, 0x00#8] = .command (.triangle 179#32) [] ∧
    decodeHost [0x41#8, 0x00#8, 0x01#8, 0x00#8, 0x80#8] = .command (.drawFrame 0x80000100#32) [] ∧
    decodeHost [0x42#8, 0x9A#8, 0x99#8, 0x99#8, 0x99#8, 0x99#8, 0x99#8, 0xB9#8, 0x3F#8,
        0x00#8, 0x00#8, 0x00#8, 0x00#8, 0x00#8, 0x00#8, 0x24#8, 0x40#8] =
      .command (.runAnim 0x3FB999999999999A#64 0x4024000000000000#64) [] ∧
    decodeHost [0x43#8] = .command .animStatus [] := by decide

theorem test_decode_session :
    decodeHost [0x50#8] = .command .beginSession [] ∧
    decodeHost [0x51#8] = .command .status [] ∧
    decodeHost [0x52#8] = .command .statusClear [] := by decide

theorem test_decode_illegal :
    decodeHost [0x0F#8, 0x01#8] = .command (.illegal07 0x0F#8) [0x01#8] ∧
    decodeHost [0x14#8] = .command (.illegal14 0x14#8) [] ∧
    decodeHost [0x2F#8] = .command (.illegal25 0x2F#8) [] ∧
    decodeHost [0x31#8] = .command (.illegal31 0x31#8) [] ∧
    decodeHost [0x44#8] = .command (.illegal44 0x44#8) [] ∧
    decodeHost [0x99#8] = .command (.illegal53 0x99#8) [] := by decide

/-- R85 to R89. -/
theorem test_decode_wire_transfers :
    decodeWire Config.defaultInitSeq .transfer [0x00#8, 0xAF#8] = some (.wCmd 0xAF#8) ∧
    decodeWire Config.defaultInitSeq .transfer [0x40#8, 0xAA#8, 0xBB#8] = some (.wData [0xAA#8, 0xBB#8]) ∧
    decodeWire Config.defaultInitSeq .transfer [0x80#8, 0xAA#8] = none ∧
    decodeWire Config.defaultInitSeq .control [0x00#8] = some (.ctrlByte false) ∧
    decodeWire Config.defaultInitSeq .control [0x40#8] = some (.ctrlByte true) ∧
    decodeWire Config.defaultInitSeq .control [0x41#8] = none ∧
    decodeWire Config.defaultInitSeq .command [0b10110101#8] = some (.pageSelect 5#3) ∧
    decodeWire Config.defaultInitSeq .command [0b10111000#8] = none ∧
    decodeWire Config.defaultInitSeq .command [0x00#8] = some .colLow ∧
    decodeWire Config.defaultInitSeq .command [0x10#8] = some .colHigh := by decide

/-- R90, R91. -/
theorem test_decode_wire_bytes :
    decodeWire Config.defaultInitSeq .header [0b11110100#8] = some (.hdr10 0b10#2 false) ∧
    decodeWire Config.defaultInitSeq .header [0b11110011#8] = some (.hdr10 0b01#2 true) ∧
    decodeWire Config.defaultInitSeq .header [0b11111000#8] = none ∧
    decodeWire Config.defaultInitSeq (.init 0) [0xAE#8] = some (.initByte 0) ∧
    decodeWire Config.defaultInitSeq (.init 26) [0xAF#8] = some (.initByte 26) ∧
    decodeWire Config.defaultInitSeq (.init 26) [0xAE#8] = none := by decide

theorem test_encode_wire_items :
    encode Config.defaultInitSeq (.pageSelect 7#3) = [0xB7#8] ∧ encode Config.defaultInitSeq (.hdr10 0b11#2 true) = [0xF7#8] ∧
    encode Config.defaultInitSeq (.ctrlByte true) = [0x40#8] ∧ encode Config.defaultInitSeq (.initByte 7) = [0x81#8] := by decide

/-- R74, R77: a command that is not complete. -/
theorem test_decode_incomplete :
    decodeHost [] = .incomplete ∧ decodeHost [0x01#8, 0x03#8, 0xA5#8] = .incomplete ∧
    decodeHost [0x11#8, 0x02#8, 0x00#8, 0xAA#8] = .incomplete := by decide

/-- A table word: byte 0 lowest. A wire row's byte is read as the host port reads it (log 15). -/
theorem test_decodeTableWord :
    decodeTableWord 32 0x02A50301 = some (.addrSet 3#8 0x02A5#16) ∧
    decodeTableWord 24 0x000011 = some (.sendData []) ∧
    decodeTableWord 8 0x00 = some .nop := by decide

/-- R133's bytes, in order. -/
theorem test_init_sequence :
    Config.defaultInitSeq.toList.map (·.toNat) =
      [0xAE, 0x20, 0x00, 0xB0, 0x00, 0x10, 0x40, 0x81, 0x7F, 0xA1, 0xA6, 0xA8, 0x3F, 0xA4, 0xD3, 0x00, 0xD5, 0x80,
        0xD9, 0xF1, 0xDA, 0x12, 0xDB, 0x40, 0x8D, 0x14, 0xAF] := by decide

/-- R133: the default is admissible, with 7 bytes before the first pair and 15 between the pairs, and so is the other
sequence, whose demanded bytes follow each other. -/
theorem test_defaults_admissible : Config.defaults.Admissible :=
  ⟨Config.defaultInitSeq.toList.take 7, (Config.defaultInitSeq.toList.drop 9).take 15, [], [], by decide⟩
theorem test_other_admissible : otherParams.Admissible := ⟨List.replicate 22 0x5A#8, [], [], [], by decide⟩
/-- R133: the default with its last byte, 0xAF, replaced is not admissible. -/
theorem test_no_display_on_inadmissible :
    ¬Params.Admissible { Config.defaults with initSeq := Config.defaultInitSeq.set 26 0x00#8 } := by
  rintro ⟨a, b, c, d, h⟩
  have : 0xAF#8 ∈ (Config.defaultInitSeq.set 26 0x00#8).toList := by rw [h]; simp
  revert this
  decide

/-! ### Binary64: the constants of R25, and the products of V-AN -/

theorem test_f64_constants :
    F64.angleStep = 0x3FA1DF46A2529D39#64 ∧ F64.theta0 = 0xBFF921FB54442D18#64 ∧
    F64.off150 = 0x4004F1A6C638D03F#64 := by decide +kernel

/-- 1.0 / 10.0 is 0.1 and 1.0 / 30.0 is 0.03333333333333333. 0.1 * 30.0 is 3.0 (log 26); 0.29 * 100.0 is
28.999999999999996. -/
theorem test_f64_div_mul :
    frameDelay 0x4024000000000000#64 = 0x3FB999999999999A#64 ∧
    frameDelay 0x403E000000000000#64 = 0x3FA1111111111111#64 ∧
    F64.mul 0x3FB999999999999A#64 0x403E000000000000#64 = 0x4008000000000000#64 ∧
    F64.mul 0x3FD28F5C28F5C28F#64 0x4059000000000000#64 = 0x403CFFFFFFFFFFFF#64 := by decide +kernel

/-- The frame counts of V-AN. -/
theorem test_frame_counts :
    frameCountOf (animSetup 0x4000000000000000#64 0x4024000000000000#64) = some 20#32 ∧
    frameCountOf (animSetup 0x3FD28F5C28F5C28F#64 0x4059000000000000#64) = some 28#32 ∧
    frameCountOf (animSetup 0x3FE23D70A3D70A3D#64 0x4059000000000000#64) = some 56#32 ∧
    frameCountOf (animSetup 0x3FF0000000000000#64 0x3FE0000000000000#64) = some 0#32 ∧
    frameCountOf (animSetup 0x0000000000000001#64 0x4059000000000000#64) = some 0#32 := by
  decide +kernel

/-- The faults of V-AN: duration -1.0, 0.0, NaN; fps +inf; duration 1e10. -/
theorem test_frame_count_faults :
    faultCodeOf (animSetup 0xBFF0000000000000#64 0x4024000000000000#64) = some .badTiming ∧
    faultCodeOf (animSetup 0x0000000000000000#64 0x4024000000000000#64) = some .badTiming ∧
    faultCodeOf (animSetup 0x7FF8000000000000#64 0x4024000000000000#64) = some .badTiming ∧
    faultCodeOf (animSetup 0x3FF0000000000000#64 0x7FF0000000000000#64) = some .frameRange ∧
    faultCodeOf (animSetup 0x4202A05F20000000#64 0x3FF0000000000000#64) = some .frameRange := by
  decide +kernel

/-! ### The codec: rows of V-AC -/

theorem test_addrSet :
    (nextOf (exec (.addrSet 3#8 0xFFFF#16) State.reset)).map (·.addr) = some (.tenBit 0xFFFF#16) ∧
    (nextOf (exec (.addrSet 1#8 0xFF#16) State.reset)).map (·.addr) = some (.eightBitWrite 0xFF#8) := by decide
theorem test_addrSet_faults :
    nextOf (exec (.addrSet 4#8 0#16) State.reset) = some (State.reset.answered [0x02#8]) ∧
    nextOf (exec (.addrSet 0#8 0x100#16) State.reset) = some (State.reset.answered [0x02#8]) := by decide
theorem test_addrGet :
    answersOf (exec .addrGet State.reset) = some [[0x00#8, 0x00#8, 0x3C#8, 0x00#8]] ∧
    answersOf (exec .addrGet (withAddr (.tenBit 0x2A5#16))) = some [[0x00#8, 0x03#8, 0xA5#8, 0x02#8]] := by decide
theorem test_convTo7 :
    answersOf (exec .convTo7 (withAddr (.eightBitWrite 0x79#8))) = some [[0#8, 0#8, 0#8, 0x3C#8, 0#8]] ∧
    answersOf (exec .convTo7 (withAddr (.tenBit 0x2A5#16))) = some [[0#8, 0#8, 0#8, 0x25#8, 0#8]] := by decide
theorem test_convTo8W :
    answersOf (exec .convTo8W (withAddr (.sevenBit 0xFF#8))) = some [[0#8, 0#8, 1#8, 0xFE#8, 0#8]] ∧
    answersOf (exec .convTo8W (withAddr (.tenBit 0x2A5#16))) = some [[0#8, 0#8, 1#8, 0xF4#8, 0#8]] := by decide
theorem test_convTo8R :
    answersOf (exec .convTo8R (withAddr (.eightBitRead 0x78#8))) = some [[0#8, 0#8, 2#8, 0x79#8, 0#8]] ∧
    answersOf (exec .convTo8R (withAddr (.tenBit 0x17F#16))) = some [[0#8, 0#8, 2#8, 0xF3#8, 0#8]] := by decide
theorem test_convTo10 :
    answersOf (exec .convTo10 (withAddr (.eightBitWrite 0x79#8))) = some [[0#8, 0#8, 3#8, 0x3C#8, 0#8]] ∧
    answersOf (exec .convTo10 (withAddr (.tenBit 0x400#16))) = some [[0#8, 1#8, 3#8, 0#8, 0#8]] := by decide
theorem test_convTo10_raw :
    answersOf (exec .convTo10 { withParams otherParams with addr := .eightBitWrite 0x79#8 }) =
      some [[0#8, 0#8, 3#8, 0x79#8, 0#8]] := by decide

/-! ### The framer: rows of V-CD -/

theorem test_sendCmd_fail :
    answersOf (exec (.sendCmd 0xAF#8) (withAnswers [false])) = some [[0x00#8, 0x00#8]] ∧
    statusOf (exec (.sendCmd 0xAF#8) (withAnswers [false])) = some ⟨false, 1#32⟩ := by decide
theorem test_sendCmd_trace :
    traceOf (exec (.sendCmd 0xAF#8) (withAnswers [true])) =
      some [.xfer (.sevenBit 0x3C#8) [0x00#8, 0xAF#8] true] := by decide
theorem test_sendData :
    traceOf (exec (.sendData [0xAA#8, 0xBB#8]) (withAnswers [true])) =
      some [.xfer (.sevenBit 0x3C#8) [0x40#8, 0xAA#8, 0xBB#8] true] ∧
    answersOf (exec (.sendData []) (withAnswers [true])) = some [[0x00#8, 0x01#8]] := by decide
theorem test_init_all_fail :
    answersOf (exec .initDisplay (withAnswers (List.replicate 27 false))) = some [[0x00#8, 0x1B#8]] ∧
    statusOf (exec .initDisplay (withAnswers (List.replicate 27 false))) = some ⟨false, 27#32⟩ := by decide +kernel
/-- Another INIT_SEQ, byte 0 of it. -/
theorem test_init_other_sequence :
    ((traceOf (exec .initDisplay { withParams otherParams with
      transport := ⟨List.replicate 27 true, 0⟩ })).map fun t => (t.length, t.head?)) =
      some (27, some (.xfer (.sevenBit 0x3C#8) [0x00#8, 0x5A#8] true)) := by decide +kernel
theorem test_clear_last_fails :
    answersOf (exec .clearDisplay (withAnswers (List.replicate 31 true ++ [false]))) = some [[0x00#8, 0x01#8]] ∧
    statusOf (exec .clearDisplay (withAnswers (List.replicate 31 true ++ [false]))) = some ⟨false, 1#32⟩ := by
  decide +kernel
theorem test_clear_trace :
    (traceOf (exec .clearDisplay (withAnswers (List.replicate 32 true)))).map (fun t => (t.drop 28).take 4) =
      some [.xfer (.sevenBit 0x3C#8) [0x00#8, 0xB7#8] true, .xfer (.sevenBit 0x3C#8) [0x00#8, 0x00#8] true,
        .xfer (.sevenBit 0x3C#8) [0x00#8, 0x10#8] true,
        .xfer (.sevenBit 0x3C#8) (0x40#8 :: List.replicate 128 0x00#8) true] := by decide +kernel

/-! ### The frame buffer: rows of V-FB -/

theorem test_setPixel_corners :
    (nextOf (exec (.setPixel 0#16 0#16) State.reset)).map (·.fb) = some [(0, 0x01#8)] ∧
    (nextOf (exec (.setPixel 127#16 63#16) State.reset)).map (·.fb) = some [(7 * 128 + 127, 0x80#8)] := by decide
theorem test_setPixel_clipped :
    (nextOf (exec (.setPixel 128#16 0#16) State.reset)).map (·.fb) = some [] ∧
    (nextOf (exec (.setPixel 0#16 64#16) State.reset)).map (·.fb) = some [] ∧
    (nextOf (exec (.setPixel 0xFFFF#16 5#16) State.reset)).map (·.fb) = some [] ∧
    (nextOf (exec (.setPixel 0x8000#16 0#16) State.reset)).map (·.fb) = some [] := by decide
theorem test_fbZero : (nextOf (exec .fbZero (withFb [(5, 0x08#8)]))).map (·.fb) = some [] := by decide
/-- A-7. -/
theorem test_encodePage :
    answersOf (exec (.encodePage 0#8) (withFb [(5, 0x08#8)])) =
      some [[0x00#8] ++ List.replicate 5 0#8 ++ [0x08#8] ++ List.replicate 122 0#8] := by decide +kernel
theorem test_encodePage_badPage :
    nextOf (exec (.encodePage 8#8) State.reset) = some (State.reset.answered [0x03#8]) := by decide
theorem test_decodePage :
    (nextOf (exec (.decodePage 2#8 ([0x01#8, 0x02#8, 0x04#8] ++ List.replicate 125 0#8)) State.reset)).map (·.fb) =
      some [(256, 0x01#8), (257, 0x02#8), (258, 0x04#8)] := by decide +kernel
theorem test_decodePage_clears :
    (nextOf (exec (.decodePage 0#8 (List.replicate 128 0#8)) (withFb [(5, 0x08#8), (200, 1#8)]))).map (·.fb) =
      some [(200, 1#8)] := by decide +kernel
/-- P-2, command 5: the second of the 32 transfers fails. -/
theorem test_flush :
    let r := exec .flush { withFb [(0, 0x01#8), (1, 0x03#8), (2, 0x02#8)] with
      transport := { queue := [true, false] ++ List.replicate 30 true, drawn := 0 } }
    answersOf r = some [[0x00#8, 0x01#8]] ∧ statusOf r = some ⟨true, 1#32⟩ ∧
    (traceOf r).map (fun t => (t.drop 1).take 3) =
      some [.xfer (.sevenBit 0x3C#8) [0x00#8, 0x00#8] false, .xfer (.sevenBit 0x3C#8) [0x00#8, 0x10#8] true,
        .xfer (.sevenBit 0x3C#8) ([0x40#8, 0x01#8, 0x03#8, 0x02#8] ++ List.replicate 125 0#8) true] := by
  decide +kernel

/-! ### The rasterizer: rows of V-BR -/

theorem test_line_points :
    linePoints ⟨0, 0⟩ ⟨5, 2⟩ = [⟨0, 0⟩, ⟨1, 0⟩, ⟨2, 1⟩, ⟨3, 1⟩, ⟨4, 2⟩, ⟨5, 2⟩] ∧
    linePoints ⟨1, 2⟩ ⟨0, 0⟩ = [⟨1, 2⟩, ⟨0, 1⟩, ⟨0, 0⟩] ∧
    linePoints ⟨0, 0⟩ ⟨-3, 1⟩ = [⟨0, 0⟩, ⟨-1, 0⟩, ⟨-2, 1⟩, ⟨-3, 1⟩] ∧
    linePoints ⟨0, 0⟩ ⟨0, 0⟩ = [⟨0, 0⟩] := by decide
/-- A-3, and the line from (126, 62) to (130, 66), of which two points are on the screen. -/
theorem test_drawLine :
    (nextOf (exec (.drawLine 0#16 0#16 3#16 3#16) State.reset)).map (·.fb) =
      some [(0, 0x01#8), (1, 0x02#8), (2, 0x04#8), (3, 0x08#8)] ∧
    (nextOf (exec (.drawLine 126#16 62#16 130#16 66#16) State.reset)).map (·.fb) =
      some [(1022, 0x40#8), (1023, 0x80#8)] := by decide

/-! ### The animation: V-AN under the default SIN and COS -/

theorem test_triangle_frame_zero :
    triangleOf frameZeroTrig 0#64 0#32 = ⟨⟨64, 4⟩, ⟨78, 56⟩, ⟨50, 56⟩⟩ := by decide +kernel
/-- V-AN, frame 45: the rotation by a quarter turn, whose sine is 1.0. -/
theorem test_triangle_frame_forty_five :
    triangleOf frameFortyFiveTrig 0#64 45#32 = ⟨⟨92, 32⟩, ⟨39, 46⟩, ⟨39, 18⟩⟩ := by decide +kernel
/-- R209: the angle of frame 2 from a base angle of 1.0 is 1.0698131700797733. -/
theorem test_frame_angle_base :
    frameAngle 0x3FF0000000000000#64 2#32 = 0x3FF11DF46A2529D4#64 := by decide +kernel
/-- V-AN-F0, pages 0 and 7. -/
theorem test_frame_zero_pages :
    (triangleImage ⟨⟨64, 4⟩, ⟨78, 56⟩, ⟨50, 56⟩⟩).encodePage 0 =
      List.replicate 63 0#8 ++ [0xC0#8, 0x30#8, 0xC0#8] ++ List.replicate 62 0#8 ∧
    (triangleImage ⟨⟨64, 4⟩, ⟨78, 56⟩, ⟨50, 56⟩⟩).encodePage 7 =
      List.replicate 50 0#8 ++ List.replicate 29 0x01#8 ++ List.replicate 49 0#8 := by decide +kernel
/-- Two's complement, low byte first. -/
theorem test_i16_bytes : i16le (-3) = [0xFD#8, 0xFF#8] ∧ i16le 78 = [0x4E#8, 0x00#8] := by decide
theorem test_triangle_answers_once :
    (nextOf (exec (.triangle 0#32) State.reset)).map (fun s => (s.fb, s.port.busy)) = some ([], false) := by rfl
theorem test_drawFrame_discards :
    (nextOf (exec (.drawFrame 0#32) (withFb [(5, 0x08#8)]))).map (fun s => s.responses) = some [[0x00#8]] := by rfl
/-- duration 1.0, fps 0.5: Done at once. -/
theorem test_runAnim_no_frames :
    answersOf (exec (.runAnim 0x3FF0000000000000#64 0x3FE0000000000000#64) State.reset) =
      some [[0#8, 0#8, 0#8, 0#8, 0#8, 0#8, 0#8, 0#8, 0#8]] ∧
    (nextOf (exec (.runAnim 0x3FF0000000000000#64 0x3FE0000000000000#64) State.reset)).map (·.anim) =
      some ⟨.done, 0#32, 0#32, 0x4000000000000000#64⟩ := by decide +kernel
/-- V-EX: the duration is checked first. -/
theorem test_runAnim_faults :
    answersOf (exec (.runAnim 0xBFF0000000000000#64 0x7FF8000000000000#64) State.reset) = some [[0x04#8]] ∧
    answersOf (exec (.runAnim 0x3FF0000000000000#64 0x7FF0000000000000#64) State.reset) = some [[0x05#8]] := by
  decide +kernel
theorem test_animStatus :
    answersOf (exec .animStatus { State.reset with anim := ⟨.done, 1#32, 0x102#32, 0#64⟩ }) =
      some [[0#8, 2#8, 1#8, 0#8, 0#8, 0#8, 2#8, 1#8, 0#8, 0#8]] := by decide
/-- R210, R211: the hold follows a frame's last transfer, and after it `FRAME_INDEX` counts. -/
theorem test_micro_pace :
    (microStep { State.reset with
      anim := ⟨.rendering, 0#32, 1#32, 0x3FB999999999999A#64⟩
      seq := ⟨[], .send, 0#32, .anim⟩ }).trace = [.delay 0x3FB999999999999A#64] ∧
    (microStep { State.reset with
      anim := ⟨.rendering, 0#32, 1#32, 0#64⟩
      seq := ⟨[], .pace, 0#32, .anim⟩ }).anim = ⟨.rendering, 1#32, 1#32, 0#64⟩ := by decide

/-! ### Session, faults and the port: V-SE, V-EX -/

theorem test_nop : nextOf (exec .nop State.reset) = some (State.reset.answered [0x00#8]) := by decide
theorem test_begin_one_fails :
    answersOf (exec .beginSession (withAnswers (List.replicate 58 true ++ [false]))) = some [[0x00#8, 0x01#8]] ∧
    (traceOf (exec .beginSession (withAnswers (List.replicate 59 true)))).map List.length = some 59 := by
  decide +kernel
theorem test_status :
    answersOf (exec .status State.reset) = some [[0#8, 1#8, 0#8, 0#8, 0#8, 0#8]] ∧
    answersOf (exec .status { State.reset with status := ⟨false, 0x01020304#32⟩ }) =
      some [[0#8, 0#8, 4#8, 3#8, 2#8, 1#8]] := by decide
theorem test_statusClear :
    statusOf (exec .statusClear { State.reset with status := ⟨false, 7#32⟩ }) = some ⟨true, 0#32⟩ := by decide
theorem test_failCnt_saturates :
    (Status.record ⟨true, 0xFFFFFFFF#32⟩ false) = ⟨false, 0xFFFFFFFF#32⟩ := by decide
/-- V-EX: `07 00` is two commands. -/
theorem test_step_illegal_then_nop :
    (nextOf (step (withBytes [0x07#8, 0x00#8]))).map (fun s => (s.responses, s.port.incoming)) =
      some ([[0x01#8]], [0x00#8]) := by decide
theorem test_illegal_each_range :
    answersOf (exec (.illegal07 0x07#8) State.reset) = some [[0x01#8]] ∧
    answersOf (exec (.illegal14 0x14#8) State.reset) = some [[0x01#8]] ∧
    answersOf (exec (.illegal25 0x25#8) State.reset) = some [[0x01#8]] ∧
    answersOf (exec (.illegal31 0x31#8) State.reset) = some [[0x01#8]] ∧
    answersOf (exec (.illegal44 0x44#8) State.reset) = some [[0x01#8]] ∧
    answersOf (exec (.illegal53 0xFF#8) State.reset) = some [[0x01#8]] := by decide
/-- R77: the block waits. -/
theorem test_step_waits :
    faultOf (step State.reset) = some .portEmpty ∧
    (nextOf (step (withBytes [0x01#8, 0x03#8]))).map (fun s => s.port.rx) = some [0x01#8, 0x03#8] ∧
    faultOf (step { State.reset with port := ⟨[0x01#8, 0x03#8], false, []⟩ }) = some .incompleteCommand := by decide
/-- A table word is placed where the next step takes it up. -/
theorem test_withFetchWord :
    (nextOf (step (State.reset.withFetchWord 32 0x02A50301))).map (fun s => (s.addr, s.port.incoming)) =
      some (.tenBit 0x2A5#16, []) := by decide
/-- R271: a reset that falls inside CLEAR. -/
theorem test_reset_inside_command :
    (nextOf (step { State.reset with
      resetIn := some 0, framer := .wait [0x00#8, 0xB0#8], seq := ⟨clearWires.tail, .idle, 0#32, .nfailByte⟩
      port := ⟨[], true, []⟩, status := ⟨false, 3#32⟩, addr := .tenBit 1#16 })) = some State.reset := by
  decide +kernel

/-- R271: a command without transfers is abandoned with its response still owed. -/
theorem test_reset_inside_setPixel :
    let s : State := { withBytes [0x21#8, 0x05#8, 0x00#8, 0x03#8, 0x00#8, 0x00#8] with resetIn := some 1 }
    ((nextOf (step s)).map fun l => (l.responses, l.port.busy, l.fb)) = some ([], true, [(5, 0x08#8)]) ∧
    ((nextOf (step s)).bind fun l => nextOf (step l)) = some (withBytes [0x00#8]) := by decide +kernel

/-! ### Wire items -/

theorem test_wire_transfers :
    traceOf (exec (.wCmd 0xAE#8) (withAnswers [true])) =
      some [.xfer (.sevenBit 0x3C#8) [0x00#8, 0xAE#8] true] ∧
    traceOf (exec (.wData [0x55#8]) (withAnswers [true])) =
      some [.xfer (.sevenBit 0x3C#8) [0x40#8, 0x55#8] true] ∧
    traceOf (exec (.pageSelect 7#3) (withAnswers [true])) =
      some [.xfer (.sevenBit 0x3C#8) [0x00#8, 0xB7#8] true] ∧
    traceOf (exec .colLow (withAnswers [true])) = some [.xfer (.sevenBit 0x3C#8) [0x00#8, 0x00#8] true] ∧
    traceOf (exec .colHigh (withAnswers [true])) = some [.xfer (.sevenBit 0x3C#8) [0x00#8, 0x10#8] true] ∧
    traceOf (exec (.initByte 7) (withAnswers [true])) =
      some [.xfer (.sevenBit 0x3C#8) [0x00#8, 0x81#8] true] := by decide
theorem test_ctrlByte :
    (nextOf (exec (.ctrlByte true) { State.reset with framer := .ctrl .data [0x55#8] })).map (·.framer) =
      some (.payload .data [0x55#8] 0) := by decide
theorem test_hdr10 :
    answersOf (exec (.hdr10 0b10#2 true) State.reset) = some [[0#8, 0#8, 2#8, 0xF5#8, 0#8]] ∧
    answersOf (exec (.hdr10 0b11#2 false) State.reset) = some [[0#8, 0#8, 1#8, 0xF6#8, 0#8]] := by decide

/-! ### Witnesses: for each obligation with hypotheses, inputs that meet them all, at the boundary values of each clause -/

/-- A block in the middle of CLEAR. -/
def busyState : State :=
  { State.reset with
    framer := .payload .cmd [0xB3#8] 1
    seq := ⟨clearWires.tail, .idle, 2#32, .nfailByte⟩
    port := ⟨[], true, [0x00#8]⟩
    status := ⟨true, 2#32⟩ }

theorem busyState_inv : busyState.Inv where
  admissible := test_defaults_admissible
  memWf := by decide
  indexLe := by decide
  idleZero := by decide
  doneAll := by decide
  failSeen := by decide
  quiet := by decide
  running := by decide
  framesLeft := by decide
  noOverlap := by decide

theorem withNop_inv : (withBytes [0x00#8]).Inv where
  admissible := test_defaults_admissible
  memWf := by decide
  indexLe := by decide
  idleZero := by decide
  doneAll := by decide
  failSeen := by decide
  quiet := by decide
  running := by decide
  framesLeft := by decide
  noOverlap := by decide

/-- A state of the invariant with the default INIT_SEQ, and one with another. -/
theorem witness_InitSendsTheSequence :
    (withBytes [0x00#8]).Inv ∧ ({ withBytes [0x00#8] with params := otherParams } : State).Inv :=
  ⟨withNop_inv, { withNop_inv with admissible := test_other_admissible }⟩

/-- A whole command, a micro-step of a command in progress, and a micro-step before a reset that is due. -/
theorem witness_StepKeepsInvariant :
    ((withBytes [0x00#8]).Inv ∧ ∃ t, step (withBytes [0x00#8]) = .next t) ∧
    (busyState.Inv ∧ ∃ t, step busyState = .next t) :=
  ⟨⟨withNop_inv, _, rfl⟩, busyState_inv, _, rfl⟩

/-- A command in progress; and, for the second clause, one with transfers and one without. -/
theorem witness_ResetWinsOverCommandInProgress :
    (({ busyState with resetIn := some 0 } : State).resetIn = some 0 ∧ busyState.port.busy = true) ∧
    (let s : State := { withBytes [0x13#8, 0x00#8] with resetIn := some 1 }
     s.resetIn = some 1 ∧ s.port.busy = false ∧
      decodeHost (s.port.rx ++ s.port.incoming) = .command .clearDisplay [0x00#8]) ∧
    (let s : State := { withBytes [0x20#8] with resetIn := some 1 }
     s.resetIn = some 1 ∧ s.port.busy = false ∧
      decodeHost (s.port.rx ++ s.port.incoming) = .command .fbZero []) := by decide

theorem witness_DueResetArrives : ({ busyState with resetIn := some 2 } : State).resetIn = some 2 := by decide

theorem witness_MachineStopsOnlyWhileWaiting :
    State.reset.Waiting ∧ State.reset.port.rx = [] ∧
    ({ State.reset with port := ⟨[0x01#8], false, []⟩ } : State).Waiting :=
  ⟨⟨rfl, rfl, rfl, rfl⟩, rfl, rfl, rfl, rfl, rfl⟩

theorem witness_IncompleteCommandNeverRuns :
    ((withBytes [0x01#8]).resetIn = none ∧ (withBytes [0x01#8]).port.busy = false ∧
      decodeHost ((withBytes [0x01#8]).port.rx ++ (withBytes [0x01#8]).port.incoming) = .incomplete ∧
      (withBytes [0x01#8]).port.incoming ≠ []) ∧
    (State.reset.resetIn = none ∧ State.reset.port.busy = false ∧
      decodeHost (State.reset.port.rx ++ State.reset.port.incoming) = .incomplete ∧
      State.reset.port.incoming = []) := by decide

/-- The bytes come partly from `PORT.RX`. -/
theorem witness_StepRunsDecodedCommand :
    let s : State := { State.reset with port := ⟨[0x10#8], false, [0xAF#8, 0x00#8]⟩ }
    s.resetIn = none ∧ s.port.busy = false ∧
      decodeHost (s.port.rx ++ s.port.incoming) = .command (.sendCmd 0xAF#8) [0x00#8] := by decide

theorem witness_DecodeOfEncodeIsTheCommand :
    (Instr.sendData [0x11#8]).isHost = true ∧ (Instr.sendData [0x11#8]).wf = true ∧
    (Instr.illegal53 0xFF#8).isHost = true ∧ (Instr.illegal53 0xFF#8).wf = true := by decide

theorem witness_EncodeOfDecodeIsTheBytes :
    decodeHost [0x21#8, 0x05#8, 0x00#8, 0x03#8, 0x80#8, 0x07#8] = .command (.setPixel 5#16 0x8003#16) [0x07#8] := by
  decide

theorem witness_WireDecodeOfEncodeIsTheItem :
    ((Instr.wData []).wf = true ∧ (Instr.wData []).place? = some .transfer) ∧
    ((Instr.ctrlByte true).wf = true ∧ (Instr.ctrlByte true).place? = some .control) ∧
    ((Instr.pageSelect 7#3).wf = true ∧ (Instr.pageSelect 7#3).place? = some .command) ∧
    ((Instr.hdr10 3#2 true).wf = true ∧ (Instr.hdr10 3#2 true).place? = some .header) ∧
    ((Instr.initByte 26).wf = true ∧ (Instr.initByte 26).place? = some (.init 26)) := by decide

/-- A command one byte short, and the same command complete. -/
theorem witness_DecoderTakesTheRuleLength :
    commandLength 0x11#8 0x02#8 0x00#8 = 5 ∧
    decodeHost [0x11#8, 0x02#8, 0x00#8, 0xAA#8] = .incomplete ∧
    decodeHost [0x11#8, 0x02#8, 0x00#8, 0xAA#8, 0xBB#8, 0x24#8] = .command (.sendData [0xAA#8, 0xBB#8]) [0x24#8] := by
  decide

/-- The ends of the six ranges, and their neighbours. -/
theorem witness_IllegalOpcodeIsConsumedAlone :
    (∀ op ∈ [0x07#8, 0x0F#8, 0x14#8, 0x1F#8, 0x25#8, 0x2F#8, 0x31#8, 0x3F#8, 0x44#8, 0x4F#8, 0x53#8, 0xFF#8],
      opRow? op = none) ∧
    (∀ op ∈ [0x06#8, 0x10#8, 0x13#8, 0x20#8, 0x24#8, 0x30#8, 0x40#8, 0x43#8, 0x50#8, 0x52#8],
      (opRow? op).isSome = true) := by decide

theorem witness_EveryCommandAnswersOnce :
    Instr.isHost .status = true ∧ exec .status State.reset = .next (State.reset.answered [0#8, 1#8, 0#8, 0#8, 0#8, 0#8]) :=
  ⟨rfl, rfl⟩

theorem witness_FaultsArePrecise :
    Instr.isHost (.encodePage 8#8) = true ∧
    ∃ t, exec (.encodePage 8#8) busyState = .next t ∧ (0x03#8 : Byte) ≠ 0x00#8 ∧
      t.responses = busyState.responses ++ [[0x03#8]] :=
  ⟨rfl, _, rfl, by decide, rfl⟩

/-- Each clause of ADDR_SET at its bounds. -/
theorem witness_AddrSetStoresOrFaults :
    (3 < (4#8).toNat ∧ ¬(3 < (3#8).toNat)) ∧ ((2#8).toNat ≤ 2 ∧ 0xFF < (0x100#16).toNat) ∧
    ¬(0xFF < (0xFF#16).toNat) := by decide

theorem witness_CodecLaws :
    (0x7F#8).toNat ≤ 0x7F ∧
    convTo8R (.sevenBit 0x3C#8) = some (.eightBitRead 0x79#8) ∧
    convTo8W (.sevenBit 0x3C#8) = some (.eightBitWrite 0x78#8) ∧
    (∀ a, Address.eightBitRead 0xFF#8 ≠ .tenBit a) ∧
    ((0x3FF#16).toNat ≤ 0x3FF ∧ (0x300#16).toNat ≤ 0x3FF ∧ (0x3FF#16).toNat / 256 = (0x300#16).toNat / 256 ∧
      (0x37F#16).toNat % 128 = (0x3FF#16).toNat % 128) := by
  refine ⟨by decide, by decide, by decide, (fun a h => by cases h), by decide⟩

theorem witness_FramerDeliversOneTransfer :
    ({ busyState with framer := .ctrl .data [1#8, 2#8] } : State).framer = .ctrl .data [1#8, 2#8] := rfl

theorem witness_FailuresNeverChangeWhatIsSent :
    (∃ a, exec (.sendCmd 1#8) State.reset = .next a) ∧
    ∃ b, exec (.sendCmd 1#8)
      { State.reset with transport := ⟨[false], 0⟩, status := ⟨false, 1#32⟩ } = .next b := ⟨⟨_, rfl⟩, _, rfl⟩

/-- On the screen at its corner, and just off it. -/
theorem witness_SetPixelSetsOnePixel :
    (withFb [(1023, 0x80#8)]).fb.wf = true ∧
    ¬(0 ≤ (128#16).toInt ∧ (128#16).toInt < 128 ∧ 0 ≤ (0#16).toInt ∧ (0#16).toInt < 64) ∧
    (0 ≤ (127#16).toInt ∧ (127#16).toInt < 128 ∧ 0 ≤ (63#16).toInt ∧ (63#16).toInt < 64) := by decide

theorem witness_EncodePageReadsItsRows : 7 < (8#8).toNat ∧ (7#8).toNat ≤ 7 := by decide

theorem witness_DecodePageWritesItsRows :
    (withFb [(1023, 0x80#8)]).fb.wf = true ∧ (List.replicate 128 (0x81#8 : Byte)).length = 128 ∧
    7 < (8#8).toNat ∧ (7#8).toNat ≤ 7 := by decide +kernel

theorem witness_EncoderDecoderLaws :
    Memory.wf [(0, 1#8), (1023, 0x80#8)] = true ∧ 7 < 8 ∧ (List.replicate 128 (1#8 : Byte)).length = 128 ∧
    (∀ c n : Nat, c < 128 → n < 8 → Memory.pixel [(0, 1#8)] c (8 * 7 + n) = Memory.pixel [] c (8 * 7 + n)) := by
  refine ⟨by decide, by decide, by decide +kernel, ?_⟩
  intro c n hc hn
  have : ¬ (0 = pixelAddr c (8 * 7 + n)) := by simp only [pixelAddr, pageAddr]; omega
  simp [Memory.pixel, Memory.readByte, this]

/-- An address that each of the three commands leaves alone. -/
theorem witness_DrawingLeavesOtherBytes :
    State.reset.fb.wf = true ∧
    ((∃ t, exec (.setPixel 0#16 0#16) State.reset = .next t) ∧ 1 ≠ pixelAddr (coord 0#16).toNat (coord 0#16).toNat) ∧
    ((∃ t, exec (.decodePage 1#8 []) State.reset = .next t) ∧
      ¬(pageAddr (pageNum 1#8) 0 ≤ 127 ∧ 127 < pageAddr (pageNum 1#8) 0 + 128) ∧
      ¬(pageAddr (pageNum 1#8) 0 ≤ 256 ∧ 256 < pageAddr (pageNum 1#8) 0 + 128)) ∧
    ((∃ t, exec (.drawLine 0#16 0#16 1#16 1#16) State.reset = .next t) ∧
      ∀ p ∈ linePoints ⟨coord 0#16, coord 0#16⟩ ⟨coord 1#16, coord 1#16⟩, onScreen p.x p.y = true →
        2 ≠ pixelAddr p.x.toNat p.y.toNat) :=
  ⟨by decide, ⟨⟨_, rfl⟩, by decide⟩, ⟨⟨_, rfl⟩, by decide⟩, ⟨_, rfl⟩, by decide⟩

theorem witness_LinePointsCountAndShape :
    (linePoints ⟨0, 0⟩ ⟨2, 1⟩)[1]? = some ⟨1, 1⟩ ∧ (linePoints ⟨0, 0⟩ ⟨2, 1⟩)[1 + 1]? = some ⟨2, 1⟩ := by decide

theorem witness_LineErrorStaysInRange :
    let c := lineSetup ⟨0, 0⟩ ⟨5, 2⟩
    c.dy ≤ 0 ∧ 0 ≤ c.dx ∧ 2 * c.dy ≤ 2 * c.dx ∧ 2 * c.dx ≤ 2 * c.dx := by decide

theorem witness_LineSetsExactlyItsPoints :
    Memory.wf [(1023, 0x80#8)] = true ∧ (127 : Nat) < 128 ∧ (63 : Nat) < 64 := by decide

theorem witness_LinesAsymmetricInGeneralSymmetricIfStraight :
    ((⟨0, 5⟩ : Vertex).y = (⟨9, 5⟩ : Vertex).y) ∧ ((⟨3, 0⟩ : Vertex).x = (⟨3, 7⟩ : Vertex).x) ∧
    (((-3 : Int) - 0).natAbs = ((3 : Int) - 0).natAbs) := by decide

/-- The default SIN and COS, and the greatest COS(THETA0) below the bound. -/
theorem witness_FrameZeroApexIsCentreTop :
    (frameZeroTrig.cos 0#64 = 0x3FF0000000000000#64 ∧ frameZeroTrig.sin 0#64 = 0#64 ∧
      frameZeroTrig.sin F64.theta0 = 0xBFF0000000000000#64) ∧
    (∃ v, (frameZeroTrig.cos F64.theta0).value? = some v ∧ |v| < 12 / 10 ^ 17) ∧
    ∃ v, F64.value? 0x3CA14B37F4B51F70#64 = some v ∧ |v| < 12 / 10 ^ 17 := by
  refine ⟨by decide +kernel, ⟨4967757600021511 / 2 ^ 106, by decide +kernel, by norm_num [abs_lt]⟩,
    304236144054775 / 2 ^ 101, by decide +kernel, by norm_num [abs_lt]⟩

/-- A finite number, an infinity and a NaN. -/
theorem witness_FrameNumberAndReadingsAreExact :
    F64.value? 0xC004000000000000#64 = some (-5 / 2) ∧ F64.value? F64.plusInf = none ∧
    F64.value? 0x7FF8000000000000#64 = none := by decide +kernel

/-- Two finite numbers, the second not 0, and a positive one. -/
theorem witness_ArithmeticRoundsToNearestEven :
    F64.value? 0x3FF0000000000000#64 = some 1 ∧ F64.value? 0x4024000000000000#64 = some 10 ∧ (10 : ℚ) ≠ 0 ∧
    F64.gtZero 0x4024000000000000#64 = true := by decide +kernel

/-- By pattern: NaNs, +0.0, -0.0 and a negative; the least positive number and +infinity. -/
theorem witness_RunAnimFaultsOnBadTiming_patterns :
    ((0x7FF0000000000001#64 : F64).toNat / 2 ^ 52 % 2048 = 2047 ∧ (0x7FF0000000000001#64 : F64).toNat % 2 ^ 52 ≠ 0) ∧
    (0x8000000000000001#64 : F64).msb = true ∧
    (0 < (1#64 : F64).toNat ∧ (1#64 : F64).toNat ≤ 0x7FF0000000000000 ∧
      0 < F64.plusInf.toNat ∧ F64.plusInf.toNat ≤ 0x7FF0000000000000) := by decide

/-- duration 0.0 and -0.0; fps NaN; an infinite product; the least whole product above 0xFFFFFFFF. -/
theorem witness_RunAnimFaultsOnBadTiming :
    (F64.gtZero 0#64 = false ∧ F64.gtZero 0x8000000000000000#64 = false ∧ F64.gtZero 0x7FF8000000000000#64 = false) ∧
    (F64.gtZero 0x3FF0000000000000#64 = true ∧ F64.gtZero 0x7FF0000000000000#64 = true ∧
      F64.floor? (F64.mul 0x3FF0000000000000#64 0x7FF0000000000000#64) = none) ∧
    (F64.gtZero 0x41F0000000000000#64 = true ∧
      F64.floor? (F64.mul 0x41F0000000000000#64 0x3FF0000000000000#64) = some 0x100000000 ∧
      0xFFFFFFFF < (0x100000000 : Int)) := by decide +kernel

/-- No frame, one frame, and the greatest frame count. -/
theorem witness_RunAnimRunsToDone :
    ((0x3FF0000000000000 : Nat) ≤ 0x7FF0000000000000 ∧ 0 < (0x3FE0000000000000#64 : F64).toNat ∧
      F64.floor? (F64.mul 0x3FF0000000000000#64 0x3FE0000000000000#64) = some ((0#32).toNat : Int)) ∧
    F64.floor? (F64.mul 0x3FB999999999999A#64 0x4024000000000000#64) = some ((1#32).toNat : Int) ∧
    F64.floor? (F64.mul 0x41EFFFFFFFE00000#64 0x3FF0000000000000#64) = some ((0xFFFFFFFF#32).toNat : Int) := by
  decide +kernel

theorem exec_runAnim_next (duration fps : F64) (s : State) : ∃ t, exec (.runAnim duration fps) s = .next t := by
  simp only [exec, execRunAnim]
  cases animSetup duration fps <;> exact ⟨_, rfl⟩

theorem ok_of_frameCountOf (r : Except FaultCode U32) (n : U32) (h : frameCountOf r = some n) : r = .ok n := by
  cases r with
  | ok m => simpa [frameCountOf] using h
  | error c => simp [frameCountOf] at h

theorem witness_RunAnimTraceIsFramesAndDelays :
    animSetup 0x3FB999999999999A#64 0x4024000000000000#64 = .ok 1#32 ∧
    ∃ t, exec (.runAnim 0x3FB999999999999A#64 0x4024000000000000#64) State.reset = .next t :=
  ⟨ok_of_frameCountOf _ _ (by decide +kernel), exec_runAnim_next _ _ _⟩

/-- The shortest and the longest payload. -/
theorem witness_SendDataIsOneTransfer :
    ([] : List Byte).length ≤ 65535 ∧ (List.replicate 65535 (0x40#8 : Byte)).length ≤ 65535 := by
  simp only [List.length_replicate]; decide

theorem witness_AnimStatusReportsTheSequencer :
    (withBytes [0x00#8]).Inv ∧ (withBytes [0x00#8]).port.busy = false := ⟨withNop_inv, rfl⟩

/-- A command that changes the field, for each clause that speaks of a change. -/
theorem witness_CommandsWriteOnlyTheirState :
    ((nextOf (exec (.addrSet 3#8 1#16) State.reset)).map (·.addr) = some (.tenBit 1#16) ∧
      State.reset.addr ≠ .tenBit 1#16) ∧
    ((nextOf (exec (.sendCmd 1#8) (withAnswers [false]))).map (·.status) = some ⟨false, 1#32⟩ ∧
      (withAnswers [false]).status ≠ ⟨false, 1#32⟩) ∧
    ((nextOf (exec (.runAnim 0x3FF0000000000000#64 0x3FE0000000000000#64) State.reset)).map (·.anim.state) =
      some .done ∧ State.reset.anim.state ≠ .done) ∧
    ((nextOf (exec (.setPixel 0#16 0#16) State.reset)).map (·.fb) = some [(0, 1#8)] ∧ State.reset.fb ≠ [(0, 1#8)]) := by
  decide +kernel

/-- A command that transfers, one that does not, and a run. -/
theorem witness_MicroStepsReachTheResult :
    State.reset.framer = .idle ∧ State.reset.seq = Seq.idle ∧
    (Instr.isHost (.sendCmd 0xAF#8) = true ∧ ∃ t, exec (.sendCmd 0xAF#8) State.reset = .next t) ∧
    (Instr.isHost .status = true ∧ ∃ t, exec .status State.reset = .next t) ∧
    (Instr.isHost (.runAnim 0x3FB999999999999A#64 0x4024000000000000#64) = true ∧
      ∃ t, exec (.runAnim 0x3FB999999999999A#64 0x4024000000000000#64) State.reset = .next t) :=
  ⟨rfl, rfl, ⟨rfl, _, rfl⟩, ⟨rfl, _, rfl⟩, rfl, exec_runAnim_next _ _ _⟩

end Sys2Proof.Tests
end

