-- ==== Sys2Proof/Proofs/Float64Infinity.lean ====
section
/-! SUPPORT. Binary64 at +infinity: what `gtZero` says of a pattern, and the products and the quotient of R203 and R204
that have +infinity as an operand. -/

namespace Sys2Proof
namespace F64

@[simp] theorem unpack_plusInf : unpack plusInf = .inf false := by decide

@[simp] theorem infinity_false : infinity false = plusInf := by decide

/-- The patterns above 0.0 are +infinity and the positive numbers (R203). -/
theorem gtZero_iff (a : F64) :
    gtZero a = true ↔ unpack a = .inf false ∨ ∃ m e, m ≠ 0 ∧ unpack a = .fin false m e := by
  unfold gtZero
  cases unpack a with
  | nan => simp
  | inf s => simp
  | fin s m e => simp [and_comm]

theorem plusInf_mul {a : F64} (ha : gtZero a = true) : mul plusInf a = plusInf := by
  obtain h | ⟨m, e, hm, h⟩ := (gtZero_iff a).1 ha
  · simp [mul, h]
  · simp [mul, h, hm]

theorem mul_plusInf {a : F64} (ha : gtZero a = true) : mul a plusInf = plusInf := by
  obtain h | ⟨m, e, hm, h⟩ := (gtZero_iff a).1 ha
  · simp [mul, h]
  · simp [mul, h, hm]

/-- A finite number over +infinity is the zero of its sign. -/
theorem div_plusInf {a : F64} {s : Bool} {m : Nat} {e : Int} (ha : unpack a = .fin s m e) :
    div a plusInf = withSign s 0 := by
  simp [div, ha]

end F64
end Sys2Proof
end

