-- ==== Sys2Proof/Proofs/Scope.lean ====
section
/-! The obligations of 00_scope.md. -/

namespace Sys2Proof

/-- Settles O52: each operation computes its exact result and rounds it once by `round`, which is rounding to nearest even
(`F64.round_isNearest'`); the operands at +infinity are read off the operations' own cases. -/
theorem arithmeticRoundsToNearestEven : Obligations.ArithmeticRoundsToNearestEven := by
  have one_unpack : F64.unpack 0x3FF0000000000000#64 = .fin false (2 ^ 52) (-52) := by decide
  exact ⟨fun a b v w ha hb => ⟨F64.add_isNearest a b v w ha hb, F64.sub_isNearest a b v w ha hb,
      F64.mul_isNearest a b v w ha hb, F64.div_isNearest a b v w ha hb⟩,
    fun _ ha => ⟨F64.plusInf_mul ha, F64.mul_plusInf ha⟩,
    F64.div_plusInf one_unpack⟩

end Sys2Proof
end

/-! ## What a host command does to the state

SUPPORT for the obligations of 10_state.md. Every host command answers one frame, and before the response is out it has
made one of the six kinds of change of `HostEffect`: `exec_hostEffect` says so once, and O59 and the invariant's step
over a whole command (O3) are read off it. -/

namespace Sys2Proof.Machine

@[simp] theorem State.sent_addr (l : List (List Byte)) (s : State) : (s.sent l).addr = s.addr := rfl
@[simp] theorem State.sent_status (l : List (List Byte)) (s : State) :
    (s.sent l).status = s.status.after (s.transport.answers l.length) := rfl
@[simp] theorem State.sent_anim (l : List (List Byte)) (s : State) : (s.sent l).anim = s.anim := rfl
@[simp] theorem State.sent_fb (l : List (List Byte)) (s : State) : (s.sent l).fb = s.fb := rfl
@[simp] theorem State.sent_framer (l : List (List Byte)) (s : State) : (s.sent l).framer = s.framer := rfl
@[simp] theorem State.sent_seq (l : List (List Byte)) (s : State) : (s.sent l).seq = s.seq := rfl
@[simp] theorem State.sent_port (l : List (List Byte)) (s : State) : (s.sent l).port = s.port := rfl
@[simp] theorem State.sent_trace (l : List (List Byte)) (s : State) :
    (s.sent l).trace = s.trace ++ xferEvents s.addr l (s.transport.answers l.length) := rfl
@[simp] theorem State.sent_responses (l : List (List Byte)) (s : State) : (s.sent l).responses = s.responses := rfl
@[simp] theorem State.sent_transport (l : List (List Byte)) (s : State) :
    (s.sent l).transport = s.transport.after l.length := rfl
@[simp] theorem State.sent_resetIn (l : List (List Byte)) (s : State) : (s.sent l).resetIn = s.resetIn := rfl
@[simp] theorem State.sent_params (l : List (List Byte)) (s : State) : (s.sent l).params = s.params := rfl

/-! ### STATUS: a failed last transfer has been counted (R23, R130) -/

/-- The clause `failSeen` of the invariant, of `STATUS` alone. -/
def Status.FailSeen (st : Status) : Prop := st.lastOk = false → st.failCnt ≠ 0

theorem satAdd32_one_ne_zero (v : U32) : satAdd32 v 1 ≠ 0 := by
  intro h
  have hn : (satAdd32 v 1).toNat = 0 := by rw [h]; rfl
  have hv := v.isLt
  simp only [satAdd32, BitVec.toNat_ofNat] at hn
  omega

theorem Status.record_failSeen (st : Status) (ok : Bool) : (st.record ok).FailSeen := by
  cases ok
  · exact fun _ => satAdd32_one_ne_zero st.failCnt
  · exact fun h => nomatch h

theorem Status.after_failSeen {st : Status} (h : st.FailSeen) (oks : List Bool) : (st.after oks).FailSeen := by
  induction oks generalizing st with
  | nil => rwa [Status.after_nil]
  | cons ok oks ih => rw [Status.after_cons]; exact ih (st.record_failSeen ok)

/-! ### RUN_ANIM's loop -/

/-- One tick in the terms of Safety.lean: render, send the page transfers, hold, increment (R210). -/
theorem animTick_state (g : Trig) (nfail : U32) (s : State) :
    (animTick g nfail s).2 = nextFrame (delayEvent s.anim.delay
      ((renderFrame g s.anim.index s).sent ((flushWires (renderFrame g s.anim.index s).fb).map Wire.bytes))) := by
  simp only [animTick, sendAll_eq]
  rfl

/-- The frame of `k` ticks: only FB, STATUS, the trace, the Transport and `FRAME_INDEX` move, the last by `k`. -/
theorem animLoop_frame (g : Trig) (k : Nat) (nfail : U32) (s : State) :
    ∃ (fb : Memory) (status : Status) (trace : List Event) (transport : Transport),
      (s.fb.wf = true → fb.wf = true) ∧ (s.status.FailSeen → status.FailSeen) ∧
      (animLoop g k nfail s).2 = { s with
        fb := fb
        status := status
        trace := trace
        transport := transport
        anim := { s.anim with index := s.anim.index + BitVec.ofNat 32 k } } := by
  induction k generalizing nfail s with
  | zero => exact ⟨s.fb, s.status, s.trace, s.transport, id, id, by simp [animLoop]⟩
  | succ k ih =>
    obtain ⟨fb, status, trace, transport, hfb, hst, heq⟩ := ih (animTick g nfail s).1 (animTick g nfail s).2
    have hidx : s.anim.index + 1 + BitVec.ofNat 32 k = s.anim.index + BitVec.ofNat 32 (k + 1) := by
      rw [BitVec.add_assoc, BitVec.add_comm 1, BitVec.ofNat_add]
      rfl
    rw [animTick_state] at hfb hst heq
    refine ⟨fb, status, trace, transport, fun _ => hfb (triangleImage_wf _),
      fun h => hst (Status.after_failSeen h _), ?_⟩
    simp only [animLoop, animTick_state, heq]
    rw [← hidx]
    rfl

/-! ### Host commands -/

/-- What a host command makes of the state before its response is out: the write columns of R34. -/
inductive HostEffect (i : Instr) (s : State) : State → Prop where
  /-- a command that only answers, or a fault (R241) -/
  | none : HostEffect i s s
  /-- ADDR_SET (R101) -/
  | addr (tag : Byte) (value : U16) (a : Address) (hi : i = .addrSet tag value) :
      HostEffect i s { s with addr := a }
  /-- a command that draws (R160, R161, R163, R180, R206) -/
  | fb (m : Memory) (hi : isDrawing i = true) (hm : s.fb.wf = true → m.wf = true) :
      HostEffect i s { s with fb := m }
  /-- STATUS_CLEAR (R233) -/
  | statusClear (hi : i = .statusClear) : HostEffect i s { s with status := s.status.clear }
  /-- a command whose transfers are one list (R134 to R137, R164, R231) -/
  | sent (byteLists : List (List Byte)) (hi : isSending i = true) : HostEffect i s (s.sent byteLists)
  /-- a run of `n` frames to completion (R213) -/
  | run (duration fps : F64) (n : U32) (fb : Memory) (status : Status) (trace : List Event) (transport : Transport)
      (hi : i = .runAnim duration fps) (hfb : s.fb.wf = true → fb.wf = true)
      (hst : s.status.FailSeen → status.FailSeen) :
      HostEffect i s { s with
        fb := fb
        status := status
        trace := trace
        transport := transport
        anim := { state := .done, index := n, count := n, delay := frameDelay fps } }

theorem HostEffect.endRun_animLoop (duration fps : F64) (n : U32) (s : State) :
    HostEffect (.runAnim duration fps) s (endRun (animLoop Config.trig n.toNat 0 (startRun n fps s)).2) := by
  obtain ⟨fb, status, trace, transport, hfb, hst, heq⟩ := animLoop_frame Config.trig n.toNat 0 (startRun n fps s)
  have hrun := HostEffect.run (i := .runAnim duration fps) (s := s) duration fps n fb status trace transport rfl hfb hst
  rw [heq]
  simpa [endRun] using hrun

/-- The inversion of `exec` on host commands: one effect, then one response frame. -/
theorem exec_hostEffect {i : Instr} {s t : State} (hi : i.isHost = true) (h : exec i s = .next t) :
    ∃ frame u, HostEffect i s u ∧ t = respond frame u := by
  cases i with
  | nop | addrGet | convTo7 | convTo8W | convTo8R | convTo10 | triangle | animStatus | status | illegal07 | illegal14
  | illegal25 | illegal31 | illegal44 | illegal53 =>
    cases h
    exact ⟨_, s, .none, rfl⟩
  | addrSet tag value =>
    simp only [exec, execAddrSet] at h
    split at h
    · cases h; exact ⟨_, s, .none, rfl⟩
    · cases h; exact ⟨_, _, .addr tag value _ rfl, rfl⟩
  | sendCmd | sendData =>
    cases h
    rw [sendAndReport_eq]
    exact ⟨_, _, .sent _ rfl, rfl⟩
  | initDisplay | clearDisplay | flush | beginSession =>
    cases h
    rw [sendAndCount_eq]
    exact ⟨_, _, .sent _ rfl, rfl⟩
  | fbZero => cases h; exact ⟨_, _, .fb _ rfl fun _ => Memory.zero_wf, rfl⟩
  | setPixel => cases h; exact ⟨_, _, .fb _ rfl fun hm => Memory.setPixel_wf hm _ _, rfl⟩
  | drawLine => cases h; exact ⟨_, _, .fb _ rfl fun hm => Memory.drawLine_wf hm _ _, rfl⟩
  | drawFrame => cases h; exact ⟨_, _, .fb _ rfl fun _ => triangleImage_wf _, rfl⟩
  | encodePage page =>
    simp only [exec, execEncodePage] at h
    split at h <;> cases h <;> exact ⟨_, s, .none, rfl⟩
  | decodePage page d =>
    simp only [exec, execDecodePage] at h
    split at h
    · cases h; exact ⟨_, s, .none, rfl⟩
    · cases h; exact ⟨_, _, .fb _ rfl fun hm => Memory.decodePage_wf hm (by omega) _, rfl⟩
  | runAnim duration fps =>
    simp only [exec, execRunAnim] at h
    split at h
    · cases h; exact ⟨_, s, .none, rfl⟩
    · cases h; exact ⟨_, _, .endRun_animLoop duration fps _ s, rfl⟩
  | statusClear => cases h; exact ⟨_, _, .statusClear rfl, rfl⟩
  | wCmd | wData | ctrlByte | pageSelect | colLow | colHigh | hdr10 | initByte => cases hi

/-- Settles O59: each effect of `exec_hostEffect` writes the fields of its own column only, and the response changes
none of the fields the statement names. -/
theorem commandsWriteOnlyTheirState : Obligations.CommandsWriteOnlyTheirState := by
  intro i s t hi h
  obtain ⟨frame, u, hu, rfl⟩ := exec_hostEffect hi h
  cases hu with
  | none => simp
  | addr tag value a hi => simp [hi]
  | fb m hi => simp [hi]
  | statusClear hi => simp [hi]
  | sent byteLists hi => simp [hi]
  | run duration fps n fb status trace transport hi => simp [hi, isSending, isDrawing]

end Sys2Proof.Machine

/-! ## The invariant is kept by every step

SUPPORT for O3. One lemma per operation that a step is made of, in the order of Machine/Port.lean and
Machine/Sequencer.lean, each giving `State.Inv` of the state it leaves. An operation writes few fields, and each proof
names only the clauses of the invariant that speak of them. -/

namespace Sys2Proof

theorem illegalInstr_isHost (op : Byte) : (illegalInstr op).isHost = true := by
  unfold illegalInstr
  repeat' split
  all_goals rfl

theorem decodeOperands_isHost {op : Op} {bs rest : List Byte} {i : Instr}
    (h : decodeOperands op bs = .command i rest) : i.isHost = true := by
  cases op with
  | nop | addrGet | convTo7 | convTo8W | convTo8R | convTo10 | initDisplay | clearDisplay | fbZero | flush | animStatus
  | beginSession | status | statusClear => cases h; rfl
  | addrSet | sendCmd | setPixel | encodePage | drawLine | triangle | drawFrame | runAnim =>
    simp only [decodeOperands] at h
    split at h <;> cases h
    rfl
  | sendData | decodePage =>
    simp only [decodeOperands] at h
    split at h
    · split at h <;> cases h
      rfl
    · cases h

/-- The port never reads a wire row (R3, log 15). -/
theorem decodeHost_isHost {bs rest : List Byte} {i : Instr} (h : decodeHost bs = .command i rest) :
    i.isHost = true := by
  cases bs with
  | nil => cases h
  | cons b bs =>
    simp only [decodeHost] at h
    split at h
    · exact decodeOperands_isHost h
    · cases h; exact illegalInstr_isHost b

end Sys2Proof

namespace Sys2Proof.Machine

@[simp] theorem Seq.count_phase (q : Seq) (ok : Bool) : (q.count ok).phase = q.phase := by cases ok <;> rfl

@[simp] theorem Seq.count_pending (q : Seq) (ok : Bool) : (q.count ok).pending = q.pending := by cases ok <;> rfl

namespace State.Inv

variable {s : State}

theorem setResetIn (h : s.Inv) (r : Option Nat) : State.Inv { s with resetIn := r } := { h with }

theorem receive (h : s.Inv) : (receive s).Inv := { h with }

theorem accept (h : s.Inv) (rest : List Byte) : (accept rest s).Inv := { h with quiet := fun hb => nomatch hb }

theorem takeReset (h : s.Inv) : (takeReset s).Inv where
  admissible := h.admissible
  memWf := rfl
  indexLe := Nat.le_refl _
  idleZero _ := ⟨rfl, rfl, rfl⟩
  doneAll h := nomatch h
  failSeen h := nomatch h
  quiet _ := ⟨rfl, rfl⟩
  running := by simp [Seq.idle]
  framesLeft := by simp [Seq.idle]
  noOverlap := by simp [Seq.idle]

/-- A response frees the port, so it needs the framer and the sequencer idle. -/
theorem respond (h : s.Inv) (hf : s.framer = .idle) (hq : s.seq = Seq.idle) (frame : List Byte) :
    (respond frame s).Inv := { h with quiet := fun _ => ⟨hf, hq⟩ }

/-- A host command's effect between commands: the hidden machinery stays idle, as only micro-steps move it. -/
theorem hostEffect {i : Instr} {u : State} (h : s.Inv) (hf : s.framer = .idle) (hq : s.seq = Seq.idle)
    (hu : HostEffect i s u) : u.Inv ∧ u.framer = .idle ∧ u.seq = Seq.idle := by
  cases hu with
  | none => exact ⟨h, hf, hq⟩
  | addr => exact ⟨{ h with }, hf, hq⟩
  | fb m _ hm => exact ⟨{ h with memWf := hm h.memWf }, hf, hq⟩
  | statusClear => exact ⟨{ h with failSeen := fun hc => nomatch hc }, hf, hq⟩
  | sent byteLists => exact ⟨{ h with failSeen := Status.after_failSeen h.failSeen _ }, hf, hq⟩
  | run duration fps n fb status trace transport _ hfb hst =>
    have hphase : s.seq.phase = .idle := by rw [hq]; rfl
    refine ⟨?_, hf, hq⟩
    exact { h with
      memWf := hfb h.memWf
      failSeen := hst h.failSeen
      indexLe := Nat.le_refl _
      idleZero := fun hi => nomatch hi
      doneAll := fun _ => rfl
      running := by simp [hphase]
      framesLeft := by simp [hphase] }

/-- A whole command keeps the invariant and leaves the sequencer idle (R28, R77). -/
theorem exec {i : Instr} {t : State} (h : s.Inv) (hf : s.framer = .idle) (hq : s.seq = Seq.idle)
    (hi : i.isHost = true) (ht : exec i s = .next t) : t.Inv ∧ t.seq = Seq.idle := by
  obtain ⟨frame, u, hu, rfl⟩ := exec_hostEffect hi ht
  obtain ⟨hinv, huf, huq⟩ := h.hostEffect hf hq hu
  exact ⟨hinv.respond huf huq frame, huq⟩

/-- A command without transfers whose response is owed: the port stays busy, so that it may still be abandoned. -/
theorem owing {t : State} (ht : t.Inv) (hb : s.port.busy = true) (hq : s.seq = Seq.idle) (htq : t.seq = Seq.idle) :
    (owing s t).Inv :=
  have hphase : (Machine.owing s t).seq.phase = t.seq.phase := by simp [hq, htq]
  have hpending : (Machine.owing s t).seq.pending = t.seq.pending := by simp [hq, htq]
  { ht with
    quiet := by simp [hb]
    running := by rw [hphase]; exact ht.running
    framesLeft := by rw [hphase]; exact ht.framesLeft
    noOverlap := by rw [hphase, hpending]; exact ht.noOverlap }

theorem loadWires (h : s.Inv) (hb : s.port.busy = true) (hq : s.seq = Seq.idle) (ws : List Wire) (r : Reply) :
    (loadWires ws r s).Inv :=
  have hphase : s.seq.phase = .idle := by rw [hq]; rfl
  { h with
    quiet := by simp [hb]
    running := by simpa [hphase] using h.running
    framesLeft := by simp
    noOverlap := by simp }

theorem loadRun (h : s.Inv) (hb : s.port.busy = true) (hf : s.framer = .idle) (n : U32) (fps : F64) :
    (loadRun n fps s).Inv :=
  { h with
    indexLe := Nat.zero_le _
    idleZero := fun hi => nomatch hi
    doneAll := fun hi => nomatch hi
    quiet := by simp [hb]
    running := by simp
    framesLeft := by simp
    noOverlap := fun _ => ⟨rfl, hf⟩ }

theorem loadTransfers {i : Instr} {t : State} (h : s.Inv) (hb : s.port.busy = true) (hf : s.framer = .idle)
    (hq : s.seq = Seq.idle) (ht : loadTransfers i s = some t) : t.Inv := by
  cases i with
  | sendCmd | sendData | initDisplay | clearDisplay | flush | beginSession =>
    cases ht
    exact h.loadWires hb hq _ _
  | runAnim duration fps =>
    simp only [Machine.loadTransfers] at ht
    split at ht <;> cases ht
    exact h.loadRun hb hf _ fps
  | _ => cases ht

/-- A command taken up, its response still owed (R58 item 1, log 24). -/
theorem loadCommand {i : Instr} {t : State} (h : s.Inv) (hb : s.port.busy = true) (hf : s.framer = .idle)
    (hq : s.seq = Seq.idle) (hi : i.isHost = true) (ht : loadCommand i s = .next t) : t.Inv := by
  simp only [Machine.loadCommand] at ht
  split at ht
  next l hl => cases ht; exact h.loadTransfers hb hf hq hl
  next =>
    split at ht <;> cases ht
    next u hu =>
      obtain ⟨hinv, huq⟩ := h.exec hf hq hi hu
      exact hinv.owing hb hq huq

/-! The sequencer's actions, by what `SEQ` holds. -/

theorem seqAction_of_pending (h : s.Inv) (hb : s.port.busy = true) (g : Trig) {w : Wire} {ws : List Wire}
    (hp : s.seq.pending = w :: ws) : (seqAction g s).Inv := by
  simp only [seqAction, hp]
  exact { h with
    quiet := by simp [hb]
    noOverlap := fun hc => by simpa [hp] using (h.noOverlap hc).1 }

theorem seqAction_of_idle (h : s.Inv) (hf : s.framer = .idle) (g : Trig) (hp : s.seq.pending = [])
    (hphase : s.seq.phase = .idle) : (seqAction g s).Inv := by
  simp only [seqAction, hp, hphase]
  exact { h with
    quiet := fun _ => ⟨hf, rfl⟩
    running := by simpa [hphase, Seq.idle] using h.running
    framesLeft := by simp [Seq.idle]
    noOverlap := by simp [Seq.idle] }

theorem seqAction_of_render (h : s.Inv) (hb : s.port.busy = true) (g : Trig) (hp : s.seq.pending = [])
    (hphase : s.seq.phase = .render) : (seqAction g s).Inv := by
  have hrun : s.anim.state = .rendering := h.running.2 (by simp [hphase])
  simp only [seqAction, hp, hphase]
  split
  next hlt =>
    exact { h with
      memWf := triangleImage_wf _
      quiet := by simp [hb]
      running := by simp [hrun]
      framesLeft := fun _ => hlt
      noOverlap := by simp }
  next hge =>
    exact { h with
      idleZero := fun hi => nomatch hi
      doneAll := fun _ => BitVec.eq_of_toNat_eq (Nat.le_antisymm h.indexLe (Nat.not_lt.1 hge))
      quiet := by simp [hb]
      running := by simp
      framesLeft := by simp
      noOverlap := by simp }

theorem seqAction_of_send (h : s.Inv) (hb : s.port.busy = true) (hf : s.framer = .idle) (g : Trig)
    (hp : s.seq.pending = []) (hphase : s.seq.phase = .send) : (seqAction g s).Inv := by
  simp only [seqAction, hp, hphase]
  exact { h with
    quiet := by simp [hb]
    running := by simpa [hphase] using h.running
    framesLeft := fun _ => h.framesLeft (.inl hphase)
    noOverlap := fun _ => ⟨rfl, hf⟩ }

theorem seqAction_of_pace (h : s.Inv) (hb : s.port.busy = true) (hf : s.framer = .idle) (g : Trig)
    (hp : s.seq.pending = []) (hphase : s.seq.phase = .pace) : (seqAction g s).Inv := by
  have hrun : s.anim.state = .rendering := h.running.2 (by simp [hphase])
  have hlt : s.anim.index.toNat < s.anim.count.toNat := h.framesLeft (.inr hphase)
  have hnext : (s.anim.index + 1).toNat ≤ s.anim.count.toNat := by
    have := s.anim.count.isLt
    rw [BitVec.toNat_add_of_lt] <;> simp <;> omega
  simp only [seqAction, hp, hphase]
  exact { h with
    indexLe := hnext
    idleZero := by simp [hrun]
    doneAll := by simp [hrun]
    quiet := by simp [hb]
    running := by simp [hrun]
    framesLeft := by simp
    noOverlap := fun _ => ⟨rfl, hf⟩ }

theorem seqAction (h : s.Inv) (hb : s.port.busy = true) (hf : s.framer = .idle) (g : Trig) :
    (seqAction g s).Inv := by
  cases hp : s.seq.pending with
  | cons w ws => exact h.seqAction_of_pending hb g hp
  | nil =>
    cases hphase : s.seq.phase with
    | idle => exact h.seqAction_of_idle hf g hp hphase
    | render => exact h.seqAction_of_render hb g hp hphase
    | send => exact h.seqAction_of_send hb hf g hp hphase
    | pace => exact h.seqAction_of_pace hb hf g hp hphase

/-- An edge of the framer that leaves it under way. -/
theorem setFramer (h : s.Inv) (hb : s.port.busy = true) (hf : s.framer ≠ .idle) (f : Framer) :
    State.Inv { s with framer := f } :=
  { h with
    quiet := by simp [hb]
    noOverlap := fun hc => absurd (h.noOverlap hc).2 hf }

/-- The framer's last edge, F_WAIT to F_IDLE: the answer is recorded in `STATUS` and in `nfail` (R130, R131). -/
theorem endTransfer (h : s.Inv) (hb : s.port.busy = true) (bytes : List Byte) :
    State.Inv { (transfer bytes s).2 with framer := .idle, seq := s.seq.count (transfer bytes s).1 } :=
  { h with
    failSeen := Status.record_failSeen _ _
    quiet := by simp [hb]
    running := by simpa using h.running
    framesLeft := by simpa using h.framesLeft
    noOverlap := fun hc => ⟨by simpa using (h.noOverlap (by simpa using hc)).1, rfl⟩ }

/-- A micro-step of a command in progress: one case for each state of the framer FSM (R131). -/
theorem microStep (h : s.Inv) (hb : s.port.busy = true) : (microStep s).Inv := by
  cases hf : s.framer with
  | idle =>
    simp only [Machine.microStep, microStepWith, hf]
    exact h.seqAction hb hf _
  | ctrl kind p =>
    simp only [Machine.microStep, microStepWith, hf]
    exact h.setFramer hb (by simp [hf]) _
  | payload kind p k =>
    simp only [Machine.microStep, microStepWith, hf]
    split
    · exact h.setFramer hb (by simp [hf]) _
    · exact h.setFramer hb (by simp [hf]) _
  | wait bytes =>
    simp only [Machine.microStep, microStepWith, hf]
    exact h.endTransfer hb bytes

theorem runCommand {t : State} (h : s.Inv) (hb : s.port.busy = false) (ht : runCommand s = .next t) : t.Inv := by
  obtain ⟨hf, hq⟩ := h.quiet hb
  simp only [Machine.runCommand] at ht
  split at ht
  next i rest hd => exact ((h.accept rest).exec hf hq (decodeHost_isHost hd) ht).1
  next =>
    unfold waitForHost at ht
    split at ht
    · cases ht; exact h.receive
    · split at ht <;> cases ht

theorem microCycle {t : State} (h : s.Inv) (ht : microCycle s = .next t) : t.Inv := by
  simp only [Machine.microCycle] at ht
  split at ht
  next hb => cases ht; exact h.microStep hb
  next hb =>
    obtain ⟨hf, hq⟩ := h.quiet (by simpa using hb)
    split at ht
    next i rest hd => exact (h.accept rest).loadCommand rfl hf hq (decodeHost_isHost hd) ht
    next =>
      split at ht <;> cases ht
      · exact h.receive
      · exact h

theorem step {t : State} (h : s.Inv) (ht : step s = .next t) : t.Inv := by
  simp only [Machine.step, cycle] at ht
  split at ht
  next => cases ht; exact h.takeReset
  next k hk => exact (h.setResetIn _).microCycle ht
  next =>
    split at ht
    next hb => cases ht; exact h.microStep hb
    next hb => exact h.runCommand (by simpa using hb) ht

end State.Inv

/-- Settles O3: `State.Inv` is inductive; `State.Inv.step` splits the step as `cycle` does, and every branch has its
lemma. -/
theorem stepKeepsInvariant : Obligations.StepKeepsInvariant := fun _ _ h ht => h.step ht

end Sys2Proof.Machine

/-! ## The Transport's answers and STATUS never reach what is sent

SUPPORT for O37. `State.Agree` relates two runs that may have had other answers; one lemma per operation says that the
operation keeps it, whatever the two response frames are. -/

namespace Sys2Proof.Machine

/-- Two states with the same ADDR, ANIM, FB and parameters and the same trace but for the Transport's answers: all that
a command's transfers, drawing and animation depend on. -/
structure State.Agree (s s' : State) : Prop where
  addr : s.addr = s'.addr
  anim : s.anim = s'.anim
  fb : s.fb = s'.fb
  params : s.params = s'.params
  trace : s.trace.map Event.unanswered = s'.trace.map Event.unanswered

theorem map_unanswered_xferEvents (a : Address) {l : List (List Byte)} {oks : List Bool} (h : oks.length = l.length) :
    (xferEvents a l oks).map Event.unanswered = l.map (Event.xfer a · true) := by
  induction l generalizing oks with
  | nil => simp [xferEvents]
  | cons bs l ih =>
    cases oks with
    | nil => cases h
    | cons ok oks => simpa [xferEvents, Event.unanswered] using ih (Nat.succ.inj h)

namespace State.Agree

variable {s s' : State}

theorem respond (h : s.Agree s') (f f' : List Byte) : (respond f s).Agree (respond f' s') := { h with }

theorem sent (h : s.Agree s') (l : List (List Byte)) : (s.sent l).Agree (s'.sent l) :=
  { h with trace := by simp [map_unanswered_xferEvents, h.trace, h.addr] }

theorem transfer (h : s.Agree s') (bytes : List Byte) : (transfer bytes s).2.Agree (transfer bytes s').2 := by
  simpa only [transfer_eq] using h.sent [bytes]

theorem sendAndReport (h : s.Agree s') (w : Wire) : (sendAndReport w s).Agree (sendAndReport w s') :=
  (h.transfer w.bytes).respond _ _

theorem sendAll (h : s.Agree s') (ws : List Wire) : (sendAll ws s).2.Agree (sendAll ws s').2 := by
  simpa only [sendAll_eq] using h.sent (ws.map Wire.bytes)

theorem sendAndCount (h : s.Agree s') (ws : List Wire) : (sendAndCount ws s).Agree (sendAndCount ws s') :=
  (h.sendAll ws).respond _ _

theorem setFb (h : s.Agree s') {m m' : Memory} (hm : m = m') :
    State.Agree { s with fb := m } { s' with fb := m' } := { h with fb := hm }

theorem renderFrame (h : s.Agree s') (g : Trig) (i : U32) : (renderFrame g i s).Agree (renderFrame g i s') :=
  h.setFb (by rw [h.params])

theorem startRun (h : s.Agree s') (n : U32) (fps : F64) : (startRun n fps s).Agree (startRun n fps s') :=
  { h with anim := rfl }

theorem delayEvent (h : s.Agree s') (t : F64) : (delayEvent t s).Agree (delayEvent t s') :=
  { h with trace := by simp [h.trace] }

theorem nextFrame (h : s.Agree s') : (nextFrame s).Agree (nextFrame s') := { h with anim := by simp [h.anim] }

theorem endRun (h : s.Agree s') : (endRun s).Agree (endRun s') := { h with anim := by simp [h.anim] }

theorem animTick (h : s.Agree s') (g : Trig) (nfail nfail' : U32) :
    (animTick g nfail s).2.Agree (animTick g nfail' s').2 := by
  have hr := h.renderFrame g s.anim.index
  rw [animTick_state, animTick_state, ← h.anim, ← hr.fb]
  exact ((hr.sent _).delayEvent _).nextFrame

theorem animLoop (h : s.Agree s') (g : Trig) (k : Nat) (nfail nfail' : U32) :
    (animLoop g k nfail s).2.Agree (animLoop g k nfail' s').2 := by
  induction k generalizing nfail nfail' s s' with
  | zero => exact h
  | succ k ih => exact ih (h.animTick g nfail nfail') _ _

theorem runAnimation (h : s.Agree s') (g : Trig) (n : U32) (fps : F64) :
    (runAnimation g n fps s).Agree (runAnimation g n fps s') :=
  ((h.startRun n fps).animLoop g n.toNat 0 0).endRun.respond _ _

theorem exec {i : Instr} {a b : State} (h : s.Agree s') (ha : exec i s = .next a) (hb : exec i s' = .next b) :
    a.Agree b := by
  cases i with
  | nop | addrGet | convTo7 | convTo8W | convTo8R | convTo10 | triangle | animStatus | status | illegal07 | illegal14
  | illegal25 | illegal31 | illegal44 | illegal53 =>
    cases ha; cases hb
    exact h.respond _ _
  | addrSet tag value =>
    simp only [Machine.exec, execAddrSet] at ha hb
    cases hv : addressOf? tag value with
    | none => simp only [hv] at ha hb; cases ha; cases hb; exact h.respond _ _
    | some v => simp only [hv] at ha hb; cases ha; cases hb; exact { h with addr := rfl }
  | sendCmd | sendData => cases ha; cases hb; exact h.sendAndReport _
  | initDisplay | beginSession =>
    simp only [Machine.exec, execInitDisplay, execBeginSession, ← h.params] at ha hb
    cases ha; cases hb
    exact h.sendAndCount _
  | clearDisplay => cases ha; cases hb; exact h.sendAndCount _
  | flush =>
    simp only [Machine.exec, execFlush, ← h.fb] at ha hb
    cases ha; cases hb
    exact h.sendAndCount _
  | fbZero => cases ha; cases hb; exact (h.setFb rfl).respond _ _
  | setPixel | drawLine => cases ha; cases hb; exact (h.setFb (by rw [h.fb])).respond _ _
  | drawFrame idx => cases ha; cases hb; exact (h.renderFrame _ idx).respond _ _
  | encodePage page =>
    simp only [Machine.exec, execEncodePage] at ha hb
    by_cases hp : 7 < pageNum page
    · simp only [if_pos hp] at ha hb; cases ha; cases hb; exact h.respond _ _
    · simp only [if_neg hp] at ha hb; cases ha; cases hb; exact h.respond _ _
  | decodePage page d =>
    simp only [Machine.exec, execDecodePage] at ha hb
    by_cases hp : 7 < pageNum page
    · simp only [if_pos hp] at ha hb; cases ha; cases hb; exact h.respond _ _
    · simp only [if_neg hp] at ha hb; cases ha; cases hb; exact (h.setFb (by rw [h.fb])).respond _ _
  | runAnim duration fps =>
    simp only [Machine.exec, execRunAnim] at ha hb
    cases hv : animSetup duration fps with
    | error code => simp only [hv] at ha hb; cases ha; cases hb; exact h.respond _ _
    | ok n => simp only [hv] at ha hb; cases ha; cases hb; exact h.runAnimation _ n fps
  | statusClear => cases ha; cases hb; exact { h with }
  | wCmd | wData | pageSelect | colLow | colHigh => cases ha; cases hb; exact h.transfer _
  | initByte k =>
    simp only [Machine.exec, execInitByte, ← h.params] at ha hb
    cases ha; cases hb
    exact h.transfer _
  | ctrlByte => cases ha; cases hb; exact { h with }
  | hdr10 a r => cases r <;> cases ha <;> cases hb <;> exact h.respond _ _

end State.Agree

/-- Settles O37: the two states agree (`State.Agree`), every command keeps the agreement, and the fields compared are
fields of it. -/
theorem failuresNeverChangeWhatIsSent : Obligations.FailuresNeverChangeWhatIsSent := by
  intro i s a b tr st ha hb
  have hs : s.Agree { s with transport := tr, status := st } := ⟨rfl, rfl, rfl, rfl, rfl⟩
  have h := hs.exec ha hb
  exact ⟨h.trace, h.fb, h.anim, h.addr⟩

end Sys2Proof.Machine

/-! ## The bytes that the drawing commands leave

SUPPORT for O43. The frame of each drawing operation of the frame buffer, read off `readByte_writeByte`: every write goes
to an address that the hypothesis on `a` excludes, and the canonical form, which that lemma asks for, is kept between one
write and the next. -/

namespace Sys2Proof.Machine

namespace Memory

variable {m : Memory} {a : Nat}

theorem readByte_setPixel_of_ne (hm : m.wf = true) {x y : Int}
    (ha : onScreen x y = true → a ≠ pixelAddr x.toNat y.toNat) : (m.setPixel x y).readByte a = m.readByte a := by
  unfold setPixel
  split
  case isTrue hon => rw [readByte_writeByte hm, if_neg (ha hon)]
  case isFalse => rfl

theorem readByte_foldl_setPixel_of_ne (ps : List Vertex) (hm : m.wf = true)
    (ha : ∀ p ∈ ps, onScreen p.x p.y = true → a ≠ pixelAddr p.x.toNat p.y.toNat) :
    (ps.foldl (fun fb p => fb.setPixel p.x p.y) m).readByte a = m.readByte a := by
  induction ps generalizing m with
  | nil => rfl
  | cons p ps ih =>
    obtain ⟨hp, hps⟩ := List.forall_mem_cons.1 ha
    exact (ih (setPixel_wf hm p.x p.y) hps).trans (readByte_setPixel_of_ne hm hp)

/-- Writing columns `c` on of page `p` leaves every byte outside the page, as long as the columns stay within it. -/
theorem readByte_decodeFrom_of_outside {p : Nat} (hp : p < 8)
    (ha : ¬(pageAddr p 0 ≤ a ∧ a < pageAddr p 0 + 128)) (ds : List Byte) {c : Nat} (hc : c + ds.length ≤ 128)
    (hm : m.wf = true) : (decodeFrom p c ds m).readByte a = m.readByte a := by
  induction ds generalizing c m with
  | nil => rfl
  | cons d ds ih =>
    rw [List.length_cons] at hc
    have hlt : pageAddr p c < 1024 := by unfold pageAddr; omega
    have hne : a ≠ pageAddr p c := by unfold pageAddr at ha ⊢; omega
    calc (decodeFrom p (c + 1) ds (m.writeByte (pageAddr p c) d)).readByte a
        = (m.writeByte (pageAddr p c) d).readByte a := ih (by omega) (writeByte_wf d hlt hm)
      _ = m.readByte a := by rw [readByte_writeByte hm, if_neg hne]

theorem readByte_decodePage_of_outside (hm : m.wf = true) {p : Nat} (hp : p < 8) (d : List Byte)
    (ha : ¬(pageAddr p 0 ≤ a ∧ a < pageAddr p 0 + 128)) : (m.decodePage p d).readByte a = m.readByte a :=
  readByte_decodeFrom_of_outside hp ha _ (by simp) hm

end Memory

/-- Settles O43: each command's FB is the operation's result, or FB itself where DECODE_PAGE faults, and the operation
stores to no other byte. -/
theorem drawingLeavesOtherBytes : Obligations.DrawingLeavesOtherBytes := by
  intro s t a hfb
  refine ⟨fun x y ht ha => ?_, fun page d ht ha => ?_, fun x0 y0 x1 y1 ht ha => ?_⟩
  · cases ht
    exact Memory.readByte_setPixel_of_ne hfb ha
  · simp only [exec, execDecodePage] at ht
    split at ht
    case isTrue => cases ht; rfl
    case isFalse hp =>
      cases ht
      simpa only [respond_fb] using Memory.readByte_decodePage_of_outside hfb (by omega) d ha
  · cases ht
    exact Memory.readByte_foldl_setPixel_of_ne _ hfb ha

end Sys2Proof.Machine

/-! ## The host encoding

SUPPORT for the obligations of 30_encoding.md, Part A. `eq_code_or_opRow?_none` says once what a byte can start; each
fact about a command is then one about `decodeOperands`, by the command's format. -/

namespace Sys2Proof

/-! ### Bytes of numbers, the other way round -/

theorem leBytes_leNat (bs : List Byte) : leBytes bs.length (leNat bs) = bs := by
  induction bs with
  | nil => rfl
  | cons b bs ih =>
    have hb := b.isLt
    have hq : (b.toNat + 256 * leNat bs) / 256 = leNat bs := by omega
    have hr : BitVec.ofNat 8 (b.toNat + 256 * leNat bs) = b := by
      apply BitVec.eq_of_toNat_eq
      rw [BitVec.toNat_ofNat]
      omega
    simp only [List.length_cons, leBytes, leNat, hq, hr, ih]

/-- The low bytes of a number that fits `n` of them, after it has been held in a word of that width. -/
theorem leBytes_ofNat_leNat {bs : List Byte} {n w : Nat} (hn : bs.length = n) (hw : 2 ^ w = 256 ^ n) :
    leBytes n (BitVec.ofNat w (leNat bs)).toNat = bs := by
  subst hn
  rw [BitVec.toNat_ofNat, hw, Nat.mod_eq_of_lt (leNat_lt bs), leBytes_leNat]

@[simp] theorem u16le_u16OfBytes (a b : Byte) : u16le (u16OfBytes [a, b]) = [a, b] :=
  leBytes_ofNat_leNat rfl rfl

@[simp] theorem u32le_u32OfBytes (a b c d : Byte) : u32le (u32OfBytes [a, b, c, d]) = [a, b, c, d] :=
  leBytes_ofNat_leNat rfl rfl

theorem f64le_f64OfBytes {bs : List Byte} (h : bs.length = 8) : f64le (f64OfBytes bs) = bs :=
  leBytes_ofNat_leNat h rfl

/-! ### The opcode map -/

/-- The opcode of a command, as R71's table has it. -/
def Op.code (op : Op) : Byte := ((opTable.find? fun r => r.op = op).map OpRow.code).getD 0

theorem code_op_of_mem_opTable : ∀ r ∈ opTable, r.op.code = r.code := by decide

theorem decodeHost_code (op : Op) (bs : List Byte) : decodeHost (op.code :: bs) = decodeOperands op bs := by
  cases op <;> rfl

theorem decodeHost_of_opRow?_none {b : Byte} (h : opRow? b = none) (bs : List Byte) :
    decodeHost (b :: bs) = .command (illegalInstr b) bs := by
  simp only [decodeHost, h]

/-- Every byte starts a command (R74): one of R71's table, or an illegal opcode (R78). -/
theorem eq_code_or_opRow?_none (b : Byte) : (∃ op : Op, b = op.code) ∨ opRow? b = none := by
  cases h : opRow? b with
  | none => exact .inr rfl
  | some r =>
    obtain ⟨hmem, hcode⟩ := opRow?_some h
    exact .inl ⟨r.op, hcode ▸ (code_op_of_mem_opTable r hmem).symm⟩

/-! ### Illegal opcodes (R78) -/

theorem encode_illegalInstr (seq : Vector Byte 27) (op : Byte) : encode seq (illegalInstr op) = [op] := by
  unfold illegalInstr
  repeat' split
  all_goals rfl

theorem opRow?_eq_none_iff (op : Byte) : opRow? op = none ↔
    opIn 0x07 0x0F op ∨ opIn 0x14 0x1F op ∨ opIn 0x25 0x2F op ∨ opIn 0x31 0x3F op ∨ opIn 0x44 0x4F op ∨
      opIn 0x53 0xFF op := by
  revert op
  decide

theorem illegalInstr_wf {op : Byte} (h : opRow? op = none) : (illegalInstr op).wf = true := by
  revert op
  decide

/-! ### Decoding what was encoded -/

theorem leNat_leBytes_two {n : Nat} (h : n ≤ 65535) : leNat (leBytes 2 n) = n := by
  rw [leNat_leBytes]
  exact Nat.mod_eq_of_lt (by omega)

theorem decodeOperands_sendData {data : List Byte} (h : data.length ≤ 65535) (rest : List Byte) :
    decodeOperands .sendData (leBytes 2 data.length ++ data ++ rest) = .command (.sendData data) rest := by
  change (if leNat (leBytes 2 data.length) ≤ (data ++ rest).length then
      Decoded.command (.sendData ((data ++ rest).take (leNat (leBytes 2 data.length))))
        ((data ++ rest).drop (leNat (leBytes 2 data.length)))
    else .incomplete) = _
  rw [leNat_leBytes_two h]
  simp

theorem decodeOperands_decodePage (page : Byte) {d : List Byte} (h : d.length = 128) (rest : List Byte) :
    decodeOperands .decodePage (page :: d ++ rest) = .command (.decodePage page d) rest := by
  simp [decodeOperands, ← h]

theorem decodeOperands_runAnim (duration fps : F64) (rest : List Byte) :
    decodeOperands .runAnim (f64le duration ++ f64le fps ++ rest) = .command (.runAnim duration fps) rest := by
  change Decoded.command (.runAnim (f64OfBytes (f64le duration)) (f64OfBytes (f64le fps))) rest = _
  simp

/-- An illegal opcode in its own range is read as the instruction of that range. -/
theorem decodeHost_illegal {op : Byte} {i : Instr} (hi : illegalInstr op = i) (h : opRow? op = none)
    (rest : List Byte) : decodeHost (op :: rest) = .command i rest := by
  rw [decodeHost_of_opRow?_none h, hi]

theorem decodeHost_encode (seq : Vector Byte 27) {i : Instr} (hi : i.isHost = true) (hw : i.wf = true)
    (rest : List Byte) : decodeHost (encode seq i ++ rest) = .command i rest := by
  cases i with
  | nop | addrGet | convTo7 | convTo8W | convTo8R | convTo10 | sendCmd | initDisplay | clearDisplay | fbZero
  | encodePage | flush | animStatus | beginSession | status | statusClear => rfl
  | addrSet tag value =>
    change Decoded.command (.addrSet tag (u16OfBytes (u16le value))) rest = _
    simp
  | setPixel x y =>
    change Decoded.command (.setPixel (u16OfBytes (u16le x)) (u16OfBytes (u16le y))) rest = _
    simp
  | drawLine x0 y0 x1 y1 =>
    change Decoded.command (.drawLine (u16OfBytes (u16le x0)) (u16OfBytes (u16le y0)) (u16OfBytes (u16le x1))
      (u16OfBytes (u16le y1))) rest = _
    simp
  | triangle idx =>
    change Decoded.command (.triangle (u32OfBytes (u32le idx))) rest = _
    simp
  | drawFrame idx =>
    change Decoded.command (.drawFrame (u32OfBytes (u32le idx))) rest = _
    simp
  | sendData data => exact decodeOperands_sendData (by simpa [Instr.wf] using hw) rest
  | decodePage page d => exact decodeOperands_decodePage page (by simpa [Instr.wf] using hw) rest
  | runAnim duration fps => exact decodeOperands_runAnim duration fps rest
  | illegal07 op | illegal14 op | illegal25 op | illegal31 op | illegal44 op | illegal53 op =>
    simp only [Instr.wf, opIn, Bool.and_eq_true, decide_eq_true_eq] at hw
    refine decodeHost_illegal ?_ ((opRow?_eq_none_iff op).2 ?_) rest
    · grind [illegalInstr]
    · simp only [opIn, Bool.and_eq_true, decide_eq_true_eq]
      omega
  | wCmd | wData | ctrlByte | pageSelect | colLow | colHigh | hdr10 | initByte => cases hi

/-- Settles O9: by constructor, the decoder reads the operand bytes back (`decodeHost_encode`). -/
theorem decodeOfEncodeIsTheCommand : Obligations.DecodeOfEncodeIsTheCommand :=
  fun seq _ rest hi hw => decodeHost_encode seq hi hw rest

/-! ### Encoding what was decoded -/

theorem decodeOperands_eq_encode {op : Op} {bs rest : List Byte} {i : Instr}
    (h : decodeOperands op bs = .command i rest) (seq : Vector Byte 27) :
    op.code :: bs = encode seq i ++ rest ∧ i.wf = true := by
  cases op with
  | nop | addrGet | convTo7 | convTo8W | convTo8R | convTo10 | initDisplay | clearDisplay | fbZero | flush | animStatus
  | beginSession | status | statusClear => cases h; exact ⟨rfl, rfl⟩
  | addrSet | sendCmd | setPixel | encodePage | drawLine | triangle | drawFrame =>
    simp only [decodeOperands] at h
    split at h <;> cases h
    refine ⟨?_, rfl⟩
    simp only [encode, u16le_u16OfBytes, u32le_u32OfBytes]
    rfl
  | sendData =>
    simp only [decodeOperands] at h
    split at h
    next lo hi bs =>
      split at h <;> cases h
      next hle =>
        have hlt : leNat [lo, hi] < 256 ^ 2 := leNat_lt [lo, hi]
        have hlen : (bs.take (leNat [lo, hi])).length = leNat [lo, hi] := List.length_take_of_le hle
        have hbytes : leBytes 2 (leNat [lo, hi]) = [lo, hi] := leBytes_leNat [lo, hi]
        refine ⟨?_, ?_⟩
        · simp only [encode, hlen, hbytes, List.cons_append, List.append_assoc, List.take_append_drop]
          rfl
        · simp only [Instr.wf, hlen, decide_eq_true_eq]
          omega
    next => cases h
  | decodePage =>
    simp only [decodeOperands] at h
    split at h
    next page bs =>
      split at h <;> cases h
      next hle =>
        refine ⟨?_, ?_⟩
        · simp only [encode, List.cons_append, List.take_append_drop]
          rfl
        · simpa [Instr.wf] using hle
    next => cases h
  | runAnim =>
    simp only [decodeOperands] at h
    split at h <;> cases h
    next hle =>
      refine ⟨?_, rfl⟩
      have hfirst : (bs.take 8).length = 8 := List.length_take_of_le (by omega)
      have hsecond : ((bs.drop 8).take 8).length = 8 :=
        List.length_take_of_le (by rw [List.length_drop]; omega)
      have hsplit : (bs.drop 8).take 8 ++ bs.drop 16 = bs.drop 8 := by
        simpa using List.take_append_drop 8 (bs.drop 8)
      rw [encode, f64le_f64OfBytes hfirst, f64le_f64OfBytes hsecond, List.cons_append, List.append_assoc, hsplit,
        List.take_append_drop]
      rfl

theorem encode_of_decodeHost {bs rest : List Byte} {i : Instr} (h : decodeHost bs = .command i rest)
    (seq : Vector Byte 27) : bs = encode seq i ++ rest ∧ i.wf = true := by
  cases bs with
  | nil => cases h
  | cons b bs =>
    obtain ⟨op, rfl⟩ | hb := eq_code_or_opRow?_none b
    · rw [decodeHost_code] at h
      exact decodeOperands_eq_encode h seq
    · rw [decodeHost_of_opRow?_none hb] at h
      cases h
      rw [encode_illegalInstr]
      exact ⟨rfl, illegalInstr_wf hb⟩

/-- Settles O10: by command of R71's table, whose formats the decoder splits on, or by R78's range
(`encode_of_decodeHost`). -/
theorem encodeOfDecodeIsTheBytes : Obligations.EncodeOfDecodeIsTheBytes := by
  intro seq bs rest i h
  obtain ⟨hbs, hw⟩ := encode_of_decodeHost h seq
  exact ⟨hbs, hw, decodeHost_isHost h⟩

/-! ### The length of a command (R74) -/

theorem commandLength_of_opRow?_none {b : Byte} (h : opRow? b = none) (lo hi : Byte) : commandLength b lo hi = 1 := by
  simp only [commandLength, h]

theorem commandLength_eq (op lo hi : Byte) : commandLength op lo hi =
    if op = 0x10#8 ∨ op = 0x22#8 then 2
    else if op = 0x01#8 then 4
    else if op = 0x11#8 then 3 + (lo.toNat + 256 * hi.toNat)
    else if op = 0x23#8 then 130
    else if op = 0x21#8 ∨ op = 0x40#8 ∨ op = 0x41#8 then 5
    else if op = 0x30#8 then 9
    else if op = 0x42#8 then 17
    else 1 := by
  obtain ⟨op, rfl⟩ | h := eq_code_or_opRow?_none op
  · cases op <;> rfl
  · have hrow : ∀ b ∈ [0x10#8, 0x22#8, 0x01#8, 0x11#8, 0x23#8, 0x21#8, 0x40#8, 0x41#8, 0x30#8, 0x42#8],
        opRow? b ≠ none := by decide
    have hne := fun b hb => ne_of_apply_ne opRow? (h.trans_ne (hrow b hb).symm)
    simp only [List.forall_mem_cons] at hne
    simp [commandLength_of_opRow?_none h, hne]

/-- The answer `d` to the bytes `bs` takes the first `n` of them, or is incomplete because there are fewer. -/
def Decoded.Takes (d : Decoded) (bs : List Byte) (n : Nat) : Prop :=
  (n ≤ bs.length ∧ ∃ i, d = .command i (bs.drop n)) ∨ (bs.length < n ∧ d = .incomplete)

theorem decodeOperands_takes (op : Op) (bs : List Byte) :
    (decodeOperands op bs).Takes (op.code :: bs) (commandLength op.code (bs.getD 0 0) (bs.getD 1 0)) := by
  cases op with
  | nop | addrGet | convTo7 | convTo8W | convTo8R | convTo10 | initDisplay | clearDisplay | fbZero | flush | animStatus
  | beginSession | status | statusClear =>
    change Decoded.Takes _ _ 1
    exact .inl ⟨by simp, _, rfl⟩
  | sendCmd | encodePage =>
    change Decoded.Takes _ _ 2
    match bs with
    | [] => exact .inr ⟨by simp, rfl⟩
    | _ :: _ => exact .inl ⟨by simp, _, rfl⟩
  | addrSet =>
    change Decoded.Takes _ _ 4
    match bs with
    | [] | [_] | [_, _] => exact .inr ⟨by simp, rfl⟩
    | _ :: _ :: _ :: _ => exact .inl ⟨by simp, _, rfl⟩
  | setPixel | triangle | drawFrame =>
    change Decoded.Takes _ _ 5
    match bs with
    | [] | [_] | [_, _] | [_, _, _] => exact .inr ⟨by simp, rfl⟩
    | _ :: _ :: _ :: _ :: _ => exact .inl ⟨by simp, _, rfl⟩
  | drawLine =>
    change Decoded.Takes _ _ 9
    match bs with
    | [] | [_] | [_, _] | [_, _, _] | [_, _, _, _] | [_, _, _, _, _] | [_, _, _, _, _, _] | [_, _, _, _, _, _, _] =>
      exact .inr ⟨by simp, rfl⟩
    | _ :: _ :: _ :: _ :: _ :: _ :: _ :: _ :: _ => exact .inl ⟨by simp, _, rfl⟩
  | sendData =>
    match bs with
    | [] => exact .inr ⟨by decide, rfl⟩
    | [lo] =>
      change Decoded.Takes _ _ (3 + leNat [lo, 0#8])
      exact .inr ⟨by simp only [List.length_cons, List.length_nil]; omega, rfl⟩
    | lo :: hi :: rest =>
      change Decoded.Takes _ _ (3 + leNat [lo, hi])
      simp only [decodeOperands]
      split
      next hle => exact .inl ⟨by simp only [List.length_cons]; omega, _, by rw [Nat.add_comm]; rfl⟩
      next hgt => exact .inr ⟨by simp only [List.length_cons]; omega, rfl⟩
  | decodePage =>
    change Decoded.Takes _ _ 130
    match bs with
    | [] => exact .inr ⟨by simp, rfl⟩
    | page :: rest =>
      simp only [decodeOperands]
      split
      next hle => exact .inl ⟨by simp only [List.length_cons]; omega, _, rfl⟩
      next hgt => exact .inr ⟨by simp only [List.length_cons]; omega, rfl⟩
  | runAnim =>
    change Decoded.Takes _ _ 17
    simp only [decodeOperands]
    split
    next hle => exact .inl ⟨by simp only [List.length_cons]; omega, _, rfl⟩
    next hgt => exact .inr ⟨by simp only [List.length_cons]; omega, rfl⟩

theorem decodeHost_takes (op : Byte) (bs : List Byte) :
    (decodeHost (op :: bs)).Takes (op :: bs) (commandLength op (bs.getD 0 0) (bs.getD 1 0)) := by
  obtain ⟨op, rfl⟩ | h := eq_code_or_opRow?_none op
  · rw [decodeHost_code]
    exact decodeOperands_takes op bs
  · rw [decodeHost_of_opRow?_none h, commandLength_of_opRow?_none h]
    exact .inl ⟨by simp, _, rfl⟩

/-- Settles O12: the length is read off R71's table, and `decodeHost_takes` says that the decoder takes that many bytes
or waits for them. -/
theorem decoderTakesTheRuleLength : Obligations.DecoderTakesTheRuleLength := by
  refine ⟨commandLength_eq, fun op bs => ?_⟩
  obtain ⟨hle, i, hi⟩ | ⟨hlt, hi⟩ := decodeHost_takes op bs
  · refine ⟨⟨fun _ => ?_, fun _ => hle⟩, fun j rest hj => ?_⟩
    · simp [hi]
    · rw [hi] at hj
      cases hj
      rfl
  · refine ⟨⟨fun hle => absurd hlt (Nat.not_lt.2 hle), fun hne => absurd hi hne⟩, fun j rest hj => ?_⟩
    rw [hi] at hj
    cases hj

/-- Settles O14: the decoder evaluates on each list. -/
theorem listedCommandBytesDecode : Obligations.ListedCommandBytesDecode := ⟨rfl, rfl, rfl, rfl, rfl, rfl⟩

end Sys2Proof

namespace Sys2Proof.Machine

theorem exec_illegalInstr (op : Byte) (s : State) : exec (illegalInstr op) s = .next (s.answered [0x01#8]) := by
  unfold illegalInstr
  repeat' split
  all_goals rfl

/-- Settles O13: an opcode without a row is read as `illegalInstr`, and the six instructions raise one fault. -/
theorem illegalOpcodeIsConsumedAlone : Obligations.IllegalOpcodeIsConsumedAlone := fun op =>
  ⟨opRow?_eq_none_iff op,
    fun h rest => ⟨illegalInstr op, decodeHost_of_opRow?_none h rest, exec_illegalInstr op⟩,
    fun _ => ⟨rfl, rfl, rfl, rfl, rfl, rfl⟩⟩

end Sys2Proof.Machine

/-! ## The wire encoding and the wire rows

SUPPORT for the obligations of 30_encoding.md, Part B (R85 to R91). -/

namespace Sys2Proof

theorem pageSelectByte_eq (p : BitVec 3) : pageSelectByte p = BitVec.ofNat 8 (0xB0 + p.toNat) := by
  revert p
  decide

theorem hdr10Byte_false (a : BitVec 2) : hdr10Byte a false = BitVec.ofNat 8 (0xF0 + 2 * a.toNat) := by
  revert a
  decide

theorem hdr10Byte_true (a : BitVec 2) : hdr10Byte a true = BitVec.ofNat 8 (0xF1 + 2 * a.toNat) := by
  revert a
  decide

/-- The bits of a page-select byte (R88), none of which makes it a column byte. -/
theorem decodeWire_pageSelectByte (seq : Vector Byte 27) (p : BitVec 3) :
    decodeWire seq .command [pageSelectByte p] = some (.pageSelect p) := by
  have hbits : ∀ p : BitVec 3, pageSelectByte p ≠ 0x00#8 ∧ pageSelectByte p ≠ 0x10#8 ∧
      pageSelectByte p &&& 0xF8#8 = 0xB0#8 ∧ (pageSelectByte p).setWidth 3 = p := by decide
  obtain ⟨hlow, hhigh, hmark, hpage⟩ := hbits p
  simp only [decodeWire, if_neg hlow, if_neg hhigh, if_pos hmark, hpage]

theorem decodeWire_hdr10Byte (seq : Vector Byte 27) (a : BitVec 2) (r : Bool) :
    decodeWire seq .header [hdr10Byte a r] = some (.hdr10 a r) := by
  have hbits : ∀ (a : BitVec 2) (r : Bool), hdr10Byte a r &&& 0xF8#8 = 0xF0#8 ∧
      (hdr10Byte a r >>> 1).setWidth 2 = a ∧ (hdr10Byte a r).getLsbD 0 = r := by decide
  obtain ⟨hmark, haddr, hread⟩ := hbits a r
  simp only [decodeWire, if_pos hmark, haddr, hread]

theorem decodeWire_encode (seq : Vector Byte 27) {i : Instr} {p : WirePlace} (hw : i.wf = true)
    (hp : i.place? = some p) : decodeWire seq p (encode seq i) = some i := by
  cases i with
  | wCmd | colLow | colHigh => cases hp; rfl
  | wData payload =>
    cases hp
    simp only [Instr.wf, decide_eq_true_eq] at hw
    simp [decodeWire, encode, hw]
  | ctrlByte d => cases hp; cases d <;> rfl
  | pageSelect p => cases hp; exact decodeWire_pageSelectByte seq p
  | hdr10 a r => cases hp; exact decodeWire_hdr10Byte seq a r
  | initByte k => cases hp; exact if_pos rfl
  | _ => cases hp

/-- Settles O11: by constructor; the wire bytes that carry operands are read back bit by bit. -/
theorem wireDecodeOfEncodeIsTheItem : Obligations.WireDecodeOfEncodeIsTheItem :=
  fun seq _ _ hw hp => decodeWire_encode seq hw hp

end Sys2Proof

namespace Sys2Proof.Machine

theorem u16le_setWidth (b : Byte) : u16le (b.setWidth 16) = [b, 0#8] := by
  have h : (b.setWidth 16).toNat = b.toNat := BitVec.toNat_setWidth_of_le (by decide)
  simp [u16le, leBytes, h, Nat.div_eq_of_lt b.isLt]

theorem encodeConv_eightBitWrite (b tag : Byte) :
    encodeConv (some (.eightBitWrite b)) tag = [0x00#8, 0x00#8, 1#8, b, 0#8] := by
  simp [encodeConv, okByte, Address.tag, Address.payload, u16le_setWidth]

theorem encodeConv_eightBitRead (b tag : Byte) :
    encodeConv (some (.eightBitRead b)) tag = [0x00#8, 0x00#8, 2#8, b, 0#8] := by
  simp [encodeConv, okByte, Address.tag, Address.payload, u16le_setWidth]

/-- Settles O26: the response is that of a conversion whose value is the header byte. -/
theorem headerByteAnswersAsConversion : Obligations.HeaderByteAnswersAsConversion := by
  intro a s
  rw [← hdr10Byte_false, ← hdr10Byte_true, ← encodeConv_eightBitWrite _ 1#8, ← encodeConv_eightBitRead _ 2#8]
  exact ⟨rfl, rfl⟩

/-- Settles O34: each row is one `transfer`, which `transfer_eq` says is `State.sent` of its bytes. -/
theorem wireRowsAreOneTransferEach : Obligations.WireRowsAreOneTransferEach := by
  intro s
  have hsent (bs : List Byte) : (transfer bs s).2 = s.sent [bs] := by rw [transfer_eq]
  refine ⟨fun cmd => congrArg _ (hsent _), fun payload => congrArg _ (hsent _), fun p => ?_,
    congrArg _ (hsent _), congrArg _ (hsent _), fun k => congrArg _ (hsent _)⟩
  rw [← pageSelectByte_eq]
  exact congrArg _ (hsent _)

end Sys2Proof.Machine

/-! ## The host port and the responses

SUPPORT for the obligations of 30_encoding.md on the port (R76, R77): what one step does by what the port holds, and the
frame that a host command answers. -/

namespace Sys2Proof.Machine

/-! ### One step of an idle port -/

section

variable {s : State}

theorem step_of_command (hr : s.resetIn = none) (hb : s.port.busy = false) {i : Instr} {rest : List Byte}
    (h : decodeHost (s.port.rx ++ s.port.incoming) = .command i rest) : step s = exec i (accept rest s) := by
  simp [step, cycle, runCommand, nextCommand, hr, hb, h]

theorem step_of_incomplete (hr : s.resetIn = none) (hb : s.port.busy = false)
    (h : decodeHost (s.port.rx ++ s.port.incoming) = .incomplete) : step s = waitForHost s := by
  simp [step, cycle, runCommand, nextCommand, hr, hb, h]

theorem waitForHost_of_incoming (h : s.port.incoming ≠ []) : waitForHost s = .next (receive s) := if_pos h

theorem waitForHost_of_received (h : s.port.incoming = []) :
    (s.port.rx = [] ∧ waitForHost s = .fault .portEmpty) ∨
      (s.port.rx ≠ [] ∧ waitForHost s = .fault .incompleteCommand) := by
  by_cases hrx : s.port.rx = []
  · exact .inl ⟨hrx, by simp [waitForHost, h, hrx]⟩
  · exact .inr ⟨hrx, by simp [waitForHost, h, hrx]⟩

end

/-- Settles O8: the step is `exec` on the state that `accept` leaves. -/
theorem stepRunsDecodedCommand : Obligations.StepRunsDecodedCommand := fun _ _ _ hr hb h => step_of_command hr hb h

/-- Settles O7: the step is `waitForHost`, by whether bytes are left to receive. -/
theorem incompleteCommandNeverRuns : Obligations.IncompleteCommandNeverRuns := by
  intro s hr hb h
  rw [step_of_incomplete hr hb h]
  refine ⟨waitForHost_of_incoming, fun hin => ?_⟩
  obtain ⟨-, hf⟩ | ⟨-, hf⟩ := waitForHost_of_received hin
  · exact ⟨_, hf⟩
  · exact ⟨_, hf⟩

/-! ### No instruction stops the machine -/

theorem exec_next (i : Instr) (s : State) : ∃ t, exec i s = .next t := by
  cases i with
  | addrSet tag value =>
    simp only [exec, execAddrSet]
    split <;> exact ⟨_, rfl⟩
  | encodePage page =>
    simp only [exec, execEncodePage]
    split <;> exact ⟨_, rfl⟩
  | decodePage page d =>
    simp only [exec, execDecodePage]
    split <;> exact ⟨_, rfl⟩
  | runAnim duration fps =>
    simp only [exec, execRunAnim]
    split <;> exact ⟨_, rfl⟩
  | hdr10 a r => cases r <;> exact ⟨_, rfl⟩
  | _ => exact ⟨_, rfl⟩

theorem loadCommand_next (i : Instr) (s : State) : ∃ t, loadCommand i s = .next t := by
  obtain ⟨t, ht⟩ := exec_next i s
  simp only [loadCommand, ht]
  split <;> exact ⟨_, rfl⟩

theorem microCycle_next (s : State) : ∃ t, microCycle s = .next t := by
  unfold microCycle
  split
  · exact ⟨_, rfl⟩
  split
  · exact loadCommand_next _ _
  split <;> exact ⟨_, rfl⟩

theorem step_of_busy {s : State} (hr : s.resetIn = none) (hb : s.port.busy = true) :
    step s = .next (microStep s) := by
  simp [step, cycle, hr, hb]

theorem step_next_of_resetIn {s : State} {k : Nat} (hr : s.resetIn = some k) : ∃ t, step s = .next t := by
  cases k with
  | zero => exact ⟨takeReset s, by simp [step, cycle, hr]⟩
  | succ k => simpa [step, cycle, hr] using microCycle_next _

/-- Settles O6: of the branches of `cycle` only a port with no whole command and nothing left to receive stops. -/
theorem machineStopsOnlyWhileWaiting : Obligations.MachineStopsOnlyWhileWaiting := by
  intro s
  cases hr : s.resetIn with
  | some k => exact .inl (step_next_of_resetIn hr)
  | none =>
    cases hb : s.port.busy with
    | true => exact .inl ⟨_, step_of_busy hr hb⟩
    | false =>
      cases hd : decodeHost (s.port.rx ++ s.port.incoming) with
      | command i rest =>
        rw [step_of_command hr hb hd]
        exact .inl (exec_next _ _)
      | incomplete =>
        rw [step_of_incomplete hr hb hd]
        by_cases hin : s.port.incoming = []
        · have hwait : s.Waiting := ⟨hr, hb, hin, by simpa [hin] using hd⟩
          exact .inr ⟨hwait, waitForHost_of_received hin⟩
        · exact .inl ⟨_, waitForHost_of_incoming hin⟩

/-! ### The frame of a response (R76) -/

/-- The frames of R76: result bytes only after status OK. -/
inductive IsFrame : List Byte → Prop where
  | ok (result : List Byte) : IsFrame (okByte :: result)
  | fault (code : FaultCode) : IsFrame [code.byte]

theorem IsFrame.shape {frame : List Byte} (h : IsFrame frame) :
    ∃ (code : Byte) (result : List Byte),
      frame = code :: result ∧ code.toNat ≤ 5 ∧ (code ≠ 0x00#8 → result = []) := by
  cases h with
  | ok result => exact ⟨_, result, rfl, by decide, fun h => absurd rfl h⟩
  | fault code => exact ⟨code.byte, [], rfl, by cases code <;> decide, fun _ => rfl⟩

theorem encodeConv_isFrame (r : Option Address) (tag : Byte) : IsFrame (encodeConv r tag) := by
  cases r <;> exact .ok _

/-- A host command ends in `Respond`, whatever it did before. -/
theorem exec_respond {i : Instr} {s t : State} (hi : i.isHost = true) (h : exec i s = .next t) :
    ∃ frame u, IsFrame frame ∧ t = respond frame u := by
  cases i with
  | nop | addrGet | triangle | animStatus | status | sendCmd | sendData | initDisplay | clearDisplay | flush
  | beginSession | fbZero | setPixel | drawLine | drawFrame | statusClear => cases h; exact ⟨_, _, .ok _, rfl⟩
  | convTo7 | convTo8W | convTo8R | convTo10 => cases h; exact ⟨_, _, encodeConv_isFrame _ _, rfl⟩
  | illegal07 | illegal14 | illegal25 | illegal31 | illegal44 | illegal53 =>
    cases h
    exact ⟨_, _, .fault .illegalOpcode, rfl⟩
  | addrSet tag value =>
    simp only [exec, execAddrSet] at h
    split at h <;> cases h
    · exact ⟨_, _, .fault .badOperand, rfl⟩
    · exact ⟨_, _, .ok _, rfl⟩
  | encodePage page =>
    simp only [exec, execEncodePage] at h
    split at h <;> cases h
    · exact ⟨_, _, .fault .badPage, rfl⟩
    · exact ⟨_, _, .ok _, rfl⟩
  | decodePage page d =>
    simp only [exec, execDecodePage] at h
    split at h <;> cases h
    · exact ⟨_, _, .fault .badPage, rfl⟩
    · exact ⟨_, _, .ok _, rfl⟩
  | runAnim duration fps =>
    simp only [exec, execRunAnim] at h
    split at h <;> cases h
    · exact ⟨_, _, .fault _, rfl⟩
    · exact ⟨_, _, .ok _, rfl⟩
  | wCmd | wData | ctrlByte | pageSelect | colLow | colHigh | hdr10 | initByte => cases hi

theorem HostEffect.responses_eq {i : Instr} {s u : State} (h : HostEffect i s u) : u.responses = s.responses := by
  cases h <;> rfl

/-- Settles O15: the command's one effect emits no frame (`exec_hostEffect`), and the `Respond` it ends in emits one
(`exec_respond`). -/
theorem everyCommandAnswersOnce : Obligations.EveryCommandAnswersOnce := by
  intro i s t hi h
  obtain ⟨frame, u, hu, rfl⟩ := exec_hostEffect hi h
  obtain ⟨frame', u', hframe, heq⟩ := exec_respond hi h
  have hresp : u.responses ++ [frame] = u'.responses ++ [frame'] := congrArg State.responses heq
  obtain ⟨-, hlast⟩ := List.append_inj' hresp rfl
  cases hlast
  obtain ⟨code, result, rfl, hcode, hresult⟩ := hframe.shape
  exact ⟨code, result, by simp [hu.responses_eq], hcode, hresult, rfl⟩

end Sys2Proof.Machine

/-! ## The address codec

SUPPORT for the obligations of 40_address_codec.md: the bytes and bits that a conversion computes as numbers, the frame
of a conversion (R107), and the one test that can leave a conversion without a value (R108 item 6). -/

namespace Sys2Proof

/-! ### Shifts and masks as arithmetic -/

theorem byte_shiftRight_one (a : Byte) : a >>> 1 = BitVec.ofNat 8 (a.toNat / 2) := by bv_omega

theorem byte_shiftLeft_one (a : Byte) : a <<< 1 = BitVec.ofNat 8 (2 * a.toNat) := by bv_omega

theorem byte_shiftLeft_one_or_one (a : Byte) : a <<< 1 ||| 1#8 = BitVec.ofNat 8 (2 * a.toNat + 1) := by
  revert a
  decide

theorem byte_and_0xFE (a : Byte) : a &&& 0xFE#8 = BitVec.ofNat 8 (2 * (a.toNat / 2)) := by
  revert a
  decide

theorem byte_or_one (a : Byte) : a ||| 1#8 = BitVec.ofNat 8 (2 * (a.toNat / 2) + 1) := by
  revert a
  decide

/-- A 7-bit value survives the shift into its 8-bit write form and back. -/
theorem shiftLeft_one_shiftRight_one {a : Byte} (h : a.toNat ≤ 0x7F) : a <<< 1 >>> 1 = a := by bv_omega

/-- The read bit is shifted out again. -/
theorem shiftLeft_one_or_one_shiftRight_one {a : Byte} (h : a.toNat ≤ 0x7F) : (a <<< 1 ||| 1#8) >>> 1 = a := by
  rw [byte_shiftLeft_one_or_one]
  bv_omega

theorem setWidth_and_0x7F (a : U16) : (a &&& 0x7F#16).setWidth 8 = BitVec.ofNat 8 (a.toNat % 128) := by
  have hmask : (a &&& 0x7F#16).toNat = a.toNat % 128 := Nat.and_two_pow_sub_one_eq_mod a.toNat 7
  rw [← BitVec.ofNat_toNat, hmask]

/-- Bits 2..1 of a number, in place. -/
theorem nat_and_six (m : Nat) : m &&& 6 = 2 * (m / 2 % 4) := by
  have hlow : m &&& 6 = m % 8 &&& 6 := by
    rw [← Nat.and_two_pow_sub_one_eq_mod m 3, Nat.and_assoc]
    rfl
  have hsmall : ∀ r < 8, r &&& 6 = 2 * (r / 2) := by decide
  rw [hlow, hsmall _ (Nat.mod_lt m (by decide))]
  omega

theorem leHalf_eq_u16le (v : U16) : Machine.leHalf v = u16le v := by
  have hhigh : (v >>> 8).setWidth 8 = BitVec.ofNat 8 (v.toNat / 256) := by bv_omega
  simp [Machine.leHalf, u16le, leBytes, hhigh]

theorem hdr10Byte_getLsbD_zero (a : BitVec 2) (r : Bool) : (hdr10Byte a r).getLsbD 0 = r := by
  revert a r
  decide

end Sys2Proof

namespace Sys2Proof.Machine

/-! ### The header byte of a 10-bit address (R90) -/

theorem headerBits_toNat (a : U16) : (headerBits a).toNat = a.toNat / 256 % 4 := by
  simp [headerBits, Nat.shiftRight_eq_div_pow]

/-- The two address bits as the header byte has them, in the place that R104 and R105 mask out. -/
theorem two_mul_headerBits_toNat (a : U16) : 2 * (headerBits a).toNat = (a.toNat >>> 7) &&& 0x06 := by
  rw [headerBits_toNat, nat_and_six, Nat.shiftRight_eq_div_pow]
  omega

theorem hdr10Byte_headerBits_false (a : U16) :
    hdr10Byte (headerBits a) false = BitVec.ofNat 8 (0xF0 ||| ((a.toNat >>> 7) &&& 0x06)) := by
  rw [← two_mul_headerBits_toNat]
  generalize headerBits a = b
  revert b
  decide

theorem hdr10Byte_headerBits_true (a : U16) :
    hdr10Byte (headerBits a) true = BitVec.ofNat 8 (0xF0 ||| ((a.toNat >>> 7) &&& 0x06) ||| 0x01) := by
  rw [← two_mul_headerBits_toNat]
  generalize headerBits a = b
  revert b
  decide

/-! ### A 10-bit source (R108 item 6) -/

theorem ifTenBit_of_le {a : U16} (h : a.toNat ≤ 0x3FF) (r : Address) : ifTenBit a r = some r := if_pos h

theorem ifTenBit_eq_none_iff (a : U16) (r : Address) : ifTenBit a r = none ↔ 0x3FF < a.toNat := by
  simp [ifTenBit]

theorem ifTenBit_eq_some {a : U16} {r y : Address} (h : ifTenBit a r = some y) : r = y := by
  unfold ifTenBit at h
  split at h
  · exact Option.some.inj h
  · cases h

/-! ### The frame of a conversion (R107) -/

theorem encodeConv_sevenBit (b tag : Byte) : encodeConv (some (.sevenBit b)) tag = [0x00#8, 0x00#8, 0#8, b, 0#8] := by
  simp [encodeConv, okByte, Address.tag, Address.payload, u16le_setWidth]

theorem encodeConv_tenBit_setWidth (b tag : Byte) :
    encodeConv (some (.tenBit (b.setWidth 16))) tag = [0x00#8, 0x00#8, 3#8, b, 0#8] := by
  simp [encodeConv, okByte, Address.tag, Address.payload, u16le_setWidth]

theorem encodeConv_ifTenBit (a : U16) (r : Address) (tag : Byte) : encodeConv (ifTenBit a r) tag =
    if a.toNat ≤ 0x3FF then encodeConv (some r) tag else [0x00#8, 0x01#8, tag, 0#8, 0#8] := by
  unfold ifTenBit
  split <;> rfl

/-! ### The commands (R101 to R106) -/

theorem exec_addrGet (s : State) :
    exec .addrGet s = .next (s.answered ([0x00#8, s.addr.tag] ++ u16le s.addr.payload)) := rfl

theorem exec_convTo7 (s : State) :
    exec .convTo7 s = .next (s.answered (encodeConv (convTo7 s.addr) 0#8)) := rfl

theorem exec_convTo8W (s : State) :
    exec .convTo8W s = .next (s.answered (encodeConv (convTo8W s.addr) 1#8)) := rfl

theorem exec_convTo8R (s : State) :
    exec .convTo8R s = .next (s.answered (encodeConv (convTo8R s.addr) 2#8)) := rfl

/-- Settles O20: by the variant of ADDR; an 8-bit payload has a zero high byte. -/
theorem addrGetReadsAddr : Obligations.AddrGetReadsAddr := by
  refine ⟨fun _ => rfl, fun s => ?_⟩
  rw [exec_addrGet]
  cases s.addr with
  | sevenBit a | eightBitWrite a | eightBitRead a => simp [Address.tag, Address.payload, u16le_setWidth]
  | tenBit a => rfl

/-- Settles O21: by the variant of ADDR. -/
theorem convToSevenBitResult : Obligations.ConvToSevenBitResult := by
  refine ⟨fun _ => rfl, fun s => ?_⟩
  rw [exec_convTo7]
  cases s.addr with
  | sevenBit a => simp only [convTo7, encodeConv_sevenBit]
  | eightBitWrite a | eightBitRead a => simp only [convTo7, encodeConv_sevenBit, byte_shiftRight_one]
  | tenBit a => simp only [convTo7, encodeConv_ifTenBit, encodeConv_sevenBit, setWidth_and_0x7F]

/-- Settles O22: by the variant of ADDR; a 10-bit address gives its header byte. -/
theorem convToWriteFormResult : Obligations.ConvToWriteFormResult := by
  refine ⟨fun _ => rfl, fun s => ?_⟩
  rw [exec_convTo8W]
  cases s.addr with
  | sevenBit a => simp only [convTo8W, encodeConv_eightBitWrite, byte_shiftLeft_one]
  | eightBitWrite a | eightBitRead a => simp only [convTo8W, encodeConv_eightBitWrite, byte_and_0xFE]
  | tenBit a => simp only [convTo8W, encodeConv_ifTenBit, encodeConv_eightBitWrite, hdr10Byte_headerBits_false]

/-- Settles O23: as O22, with the read bit set. -/
theorem convToReadFormResult : Obligations.ConvToReadFormResult := by
  refine ⟨fun _ => rfl, fun s => ?_⟩
  rw [exec_convTo8R]
  cases s.addr with
  | sevenBit a => simp only [convTo8R, encodeConv_eightBitRead, byte_shiftLeft_one_or_one]
  | eightBitWrite a | eightBitRead a => simp only [convTo8R, encodeConv_eightBitRead, byte_or_one]
  | tenBit a => simp only [convTo8R, encodeConv_ifTenBit, encodeConv_eightBitRead, hdr10Byte_headerBits_true]

theorem encodeConv_widen8 (mode : Widen8Mode) (a tag : Byte) : encodeConv (some (.tenBit (widen8 mode a))) tag =
    [0x00#8, 0x00#8, 3#8, if mode = .address then BitVec.ofNat 8 (a.toNat / 2) else a, 0#8] := by
  cases mode with
  | address => simp [widen8, encodeConv_tenBit_setWidth, byte_shiftRight_one]
  | raw => exact encodeConv_tenBit_setWidth a tag

/-- Settles O24: by the source's variant; only an 8-bit form depends on the mode. -/
theorem convToTenBitResult : Obligations.ConvToTenBitResult := by
  refine ⟨fun _ => rfl, fun _ => rfl, fun mode x => ?_⟩
  cases x with
  | sevenBit a => exact encodeConv_tenBit_setWidth a 3#8
  | eightBitWrite a | eightBitRead a => exact encodeConv_widen8 mode a 3#8
  | tenBit a => exact encodeConv_ifTenBit a (.tenBit a) 3#8

/-! ### ADDR_SET (R101) -/

section

variable {tag : Byte} {value : U16}

theorem exec_addrSet_of_none (h : addressOf? tag value = none) (s : State) :
    exec (.addrSet tag value) s = .next (s.answered [0x02#8]) := by
  simp only [exec, execAddrSet, h]
  rfl

theorem exec_addrSet_of_some {a : Address} (h : addressOf? tag value = some a) (s : State) :
    exec (.addrSet tag value) s = .next (({ s with addr := a } : State).answered [0x00#8]) := by
  simp only [exec, execAddrSet, h]
  rfl

theorem addressOf?_eq_none_of_wide (htag : tag.toNat ≤ 2) (hv : 0xFF < value.toNat) :
    addressOf? tag value = none := by
  have hle : ¬3 < tag.toNat := by omega
  have hne : tag.toNat ≠ 3 := by omega
  rw [addressOf?, if_neg hle, if_neg hne, if_pos hv]

end

/-- Settles O19: a fault is `addressOf?` giving none, and where neither check of R101 fails the tag is one of four. -/
theorem addrSetStoresOrFaults : Obligations.AddrSetStoresOrFaults := by
  refine ⟨fun tag value rest => ?_, fun tag value s => ?_⟩
  · rw [leHalf_eq_u16le]
    exact decodeHost_encode Config.defaultInitSeq (i := .addrSet tag value) rfl rfl rest
  · by_cases htag : 3 < tag.toNat
    · rw [if_pos htag]
      exact exec_addrSet_of_none (if_pos htag) s
    rw [if_neg htag]
    by_cases hwide : tag.toNat ≤ 2 ∧ 0xFF < value.toNat
    · obtain ⟨hle, hv⟩ := hwide
      rw [if_pos ⟨hle, hv⟩]
      exact exec_addrSet_of_none (addressOf?_eq_none_of_wide hle hv) s
    rw [if_neg hwide]
    apply exec_addrSet_of_some
    have hfits : tag.toNat ≤ 2 → ¬0xFF < value.toNat := fun hle hv => hwide ⟨hle, hv⟩
    obtain h | h | h | h : tag.toNat = 0 ∨ tag.toNat = 1 ∨ tag.toNat = 2 ∨ tag.toNat = 3 := by omega
    · simp [addressOf?, h, hfits (by omega)]
    · simp [addressOf?, h, hfits (by omega)]
    · simp [addressOf?, h, hfits (by omega)]
    · simp [addressOf?, h]

/-! ### The laws of the codec (R108) -/

theorem convTo8W_getLsbD_zero {x y : Address} (h : convTo8W x = some y) : y.payload.getLsbD 0 = false := by
  cases x with
  | sevenBit a | eightBitWrite a | eightBitRead a =>
    cases h
    simp [Address.payload]
  | tenBit a =>
    cases ifTenBit_eq_some h
    simpa [Address.payload] using hdr10Byte_getLsbD_zero (headerBits a) false

theorem convTo8R_getLsbD_zero {x y : Address} (h : convTo8R x = some y) : y.payload.getLsbD 0 = true := by
  cases x with
  | sevenBit a | eightBitWrite a | eightBitRead a =>
    cases h
    simp [Address.payload]
  | tenBit a =>
    cases ifTenBit_eq_some h
    simpa [Address.payload] using hdr10Byte_getLsbD_zero (headerBits a) true

theorem headerBits_congr {a b : U16} (h : a.toNat / 256 = b.toNat / 256) : headerBits a = headerBits b := by
  apply BitVec.eq_of_toNat_eq
  rw [headerBits_toNat, headerBits_toNat, h]

theorem convTo7_congr {a b : U16} (ha : a.toNat ≤ 0x3FF) (hb : b.toNat ≤ 0x3FF)
    (h : a.toNat % 128 = b.toNat % 128) : convTo7 (.tenBit a) = convTo7 (.tenBit b) := by
  simp only [convTo7, ifTenBit_of_le ha, ifTenBit_of_le hb, setWidth_and_0x7F, h]

/-- Items 1 and 4 of R108, of the write form. -/
theorem convTo7_eightBitWrite_shiftLeft {a : Byte} (h : a.toNat ≤ 0x7F) :
    convTo7 (.eightBitWrite (a <<< 1)) = some (.sevenBit a) := by
  rw [convTo7, shiftLeft_one_shiftRight_one h]

/-- Item 4 of R108, of the read form. -/
theorem convTo7_eightBitRead_shiftLeft_or {a : Byte} (h : a.toNat ≤ 0x7F) :
    convTo7 (.eightBitRead (a <<< 1 ||| 1#8)) = some (.sevenBit a) := by
  rw [convTo7, shiftLeft_one_or_one_shiftRight_one h]

/-- Settles O25, item by item. Items 3 and 6 are the one test of `ifTenBit`, and item 7 is what each conversion keeps of a
10-bit value. -/
theorem codecLaws : Obligations.CodecLaws := by
  refine ⟨fun _ => convTo7_eightBitWrite_shiftLeft,
    fun _ _ => ⟨convTo8R_getLsbD_zero, convTo8W_getLsbD_zero⟩,
    ⟨by decide, by decide⟩,
    fun _ h => ⟨convTo7_eightBitWrite_shiftLeft h, convTo7_eightBitRead_shiftLeft_or h⟩,
    fun mode x hx => ?_,
    fun _ a => ⟨ifTenBit_eq_none_iff a _, ifTenBit_eq_none_iff a _, ifTenBit_eq_none_iff a _,
      ifTenBit_eq_none_iff a _⟩,
    fun a b ha hb => ⟨fun h => ?_, convTo7_congr ha hb⟩⟩
  · cases x with
    | sevenBit a | eightBitWrite a | eightBitRead a => simp [convTo7, convTo8W, convTo8R, convTo10]
    | tenBit a => exact absurd rfl (hx a)
  · simp only [convTo8W, convTo8R, ifTenBit_of_le ha, ifTenBit_of_le hb, headerBits_congr h, and_self]

end Sys2Proof.Machine

/-! ## The command protocol: the transfer commands

SUPPORT for the obligations of 41_command_protocol.md on SEND_CMD, SEND_DATA, INIT and CLEAR (R134 to R137, R139). What
the commands do is `sendAndReport_eq` and `sendAndCount_eq`; here stand their lists of transfers as bytes, and how long
they are. -/

namespace Sys2Proof.Machine

/-! ### The lists of transfers -/

/-- The bytes that a list of transfers hands to the Transport (R139). -/
def wireBytes (ws : List Wire) : Nat := (ws.map fun w => w.bytes.length).sum

theorem wireBytes_append (ws vs : List Wire) : wireBytes (ws ++ vs) = wireBytes ws + wireBytes vs := by
  simp [wireBytes]

theorem initWires_map_bytes (seq : List Byte) : (initWires seq).map Wire.bytes = seq.map fun b => [0x00#8, b] := by
  rw [initWires, List.map_map]
  rfl

@[simp] theorem initWires_length (seq : List Byte) : (initWires seq).length = seq.length := List.length_map _

/-- A command transfer is two bytes (R85). -/
theorem wireBytes_initWires (seq : List Byte) : wireBytes (initWires seq) = 2 * seq.length := by
  induction seq with
  | nil => rfl
  | cons b seq ih =>
    change 2 + wireBytes (initWires seq) = 2 * (seq.length + 1)
    omega

/-- The four transfers of page `p` (R88, R89). -/
theorem pageHeader_append_map_bytes {p : Nat} (hp : p < 8) (data : List Byte) :
    (pageHeader p ++ [Wire.sendData data]).map Wire.bytes =
      [[0x00#8, BitVec.ofNat 8 (0xB0 + p)], [0x00#8, 0x00#8], [0x00#8, 0x10#8], 0x40#8 :: data] := by
  have hselect : pageSelectByte (BitVec.ofNat 3 p) = BitVec.ofNat 8 (0xB0 + p) := by
    rw [pageSelectByte_eq, BitVec.toNat_ofNat, Nat.mod_eq_of_lt hp]
  rw [← hselect]
  rfl

theorem pageWires_map_bytes (data : Nat → List Byte) : (pageWires data).map Wire.bytes = pageTransfers data := by
  rw [pageWires, pageTransfers, List.map_flatMap]
  exact List.flatMap_congr fun p hp => pageHeader_append_map_bytes (List.mem_range.1 hp) (data p)

@[simp] theorem pageWires_length (data : Nat → List Byte) : (pageWires data).length = 32 := rfl

/-- Each of the eight pages is three transfers of two bytes, and one of a control byte and 128 data bytes. -/
theorem wireBytes_pageWires {data : Nat → List Byte} (h : ∀ p, (data p).length = 128) :
    wireBytes (pageWires data) = 1080 := by
  have hpage (p : Nat) : wireBytes (pageHeader p ++ [Wire.sendData (data p)]) = 135 := by
    change 2 + (2 + (2 + ((data p).length + 1 + 0))) = 135
    rw [h]
  have hsum (ps : List Nat) :
      wireBytes (ps.flatMap fun p => pageHeader p ++ [Wire.sendData (data p)]) = 135 * ps.length := by
    induction ps with
    | nil => rfl
    | cons p ps ih =>
      rw [List.flatMap_cons, wireBytes_append, hpage, ih, List.length_cons]
      omega
  exact hsum (List.range 8)

@[simp] theorem clearWires_length : clearWires.length = 32 := pageWires_length _

@[simp] theorem flushWires_length (fb : Memory) : (flushWires fb).length = 32 := pageWires_length _

theorem wireBytes_clearWires : wireBytes clearWires = 1080 := wireBytes_pageWires fun _ => List.length_replicate

theorem wireBytes_flushWires (fb : Memory) : wireBytes (flushWires fb) = 1080 :=
  wireBytes_pageWires fun p => by simp [Memory.encodePage]

/-- Settles O33: BEGIN's list is INIT's and CLEAR's, and every page has 128 data bytes. -/
theorem transferCountsAndSizes : Obligations.TransferCountsAndSizes := by
  have hinit (seq : Vector Byte 27) : wireBytes (initWires seq.toList) = 54 := by simp [wireBytes_initWires]
  refine ⟨fun seq => ⟨by simp, hinit seq⟩, ⟨clearWires_length, wireBytes_clearWires⟩,
    fun fb => ⟨flushWires_length fb, wireBytes_flushWires fb⟩, fun seq => ⟨by simp, ?_⟩⟩
  exact (wireBytes_append _ _).trans (congrArg₂ _ (hinit seq) wireBytes_clearWires)

/-! ### The commands -/

theorem exec_sendCmd (b : Byte) (s : State) : exec (.sendCmd b) s = .next (sendAndReport (Wire.command b) s) := rfl

theorem exec_sendData (data : List Byte) (s : State) :
    exec (.sendData data) s = .next (sendAndReport (Wire.sendData data) s) := rfl

theorem exec_initDisplay (s : State) :
    exec .initDisplay s = .next (sendAndCount (initWires s.params.initSeq.toList) s) := rfl

theorem exec_clearDisplay (s : State) : exec .clearDisplay s = .next (sendAndCount clearWires s) := rfl

/-- Settles O27: the command is one primitive transfer (`sendAndReport_eq`). -/
theorem sendCmdIsOneTransfer : Obligations.SendCmdIsOneTransfer := by
  refine ⟨fun _ _ => rfl, fun b s => ?_⟩
  rw [exec_sendCmd, sendAndReport_eq]
  rfl

/-- Settles O28: the length field holds the length of a payload that fits it, and the command is one primitive
transfer. -/
theorem sendDataIsOneTransfer : Obligations.SendDataIsOneTransfer := by
  refine ⟨fun data rest h => ?_, fun data s => ?_⟩
  · have hlen : leHalf (BitVec.ofNat 16 data.length) = leBytes 2 data.length := by
      rw [leHalf_eq_u16le, u16le, BitVec.toNat_ofNat, Nat.mod_eq_of_lt (by omega)]
    rw [hlen]
    exact decodeOperands_sendData h rest
  · rw [exec_sendData, sendAndReport_eq]
    rfl

/-- Settles O29: INIT is the composite command of its list; the sublists of an admissible INIT_SEQ are sublists of the
transfers. -/
theorem initSendsTheSequence : Obligations.InitSendsTheSequence := by
  refine ⟨fun _ => rfl, fun s => ?_, fun s hs => ?_⟩
  · rw [exec_initDisplay, sendAndCount_eq, initWires_map_bytes, initWires_length, Vector.length_toList]
  · obtain ⟨a, b, c, d, hseq⟩ := hs.admissible
    simp only [hseq, List.map_append, List.map_cons, List.map_nil]
    exact ⟨_, _, _, _, rfl⟩

/-- Settles O30: CLEAR is the composite command of eight zero pages. -/
theorem clearSendsZeroPages : Obligations.ClearSendsZeroPages := by
  refine ⟨fun _ => rfl, fun s => ?_⟩
  rw [exec_clearDisplay, sendAndCount_eq, clearWires_length, clearWires, pageWires_map_bytes]

/-- Settles O35: the arm for CTRL_BYTE, whose payload `Framer.started` is read off the framer's state. -/
theorem controlByteEntersPayload : Obligations.ControlByteEntersPayload := by
  intro d s
  have hstarted : exec (.ctrlByte d) s = .next { s with framer := .payload (kindOf d) s.framer.started 0 } := rfl
  rw [hstarted]
  cases s.framer <;> rfl

end Sys2Proof.Machine

/-! ## The framer FSM

SUPPORT for O36 and O60: one lemma per edge of R131, and the run of edges of one transfer. -/

namespace Sys2Proof.Machine

theorem satAdd32_satAdd32 (v : U32) (m n : Nat) : satAdd32 (satAdd32 v m) n = satAdd32 v (m + n) := by
  apply BitVec.eq_of_toNat_eq
  simp only [satAdd32, BitVec.toNat_ofNat]
  omega

theorem State.failures_one (s : State) : s.failures 1 = if s.transport.answerAt 0 then 0 else 1 := by
  simp only [State.failures, Transport.answers_succ, Transport.answers_zero, Transport.answerAt_zero]
  cases s.transport.answer <;> rfl

theorem State.failures_succ (s : State) (bs : List Byte) (n : Nat) :
    s.failures (n + 1) = s.failures 1 + (s.sent [bs]).failures n := by
  simp only [State.failures, State.sent_transport, List.length_singleton, Transport.answers_succ,
    Transport.answers_zero, Transport.after_succ, Transport.after_zero]
  rw [← List.count_append, List.singleton_append]

theorem State.failures_le (s : State) (n : Nat) : s.failures n ≤ n :=
  List.count_le_length.trans_eq (Transport.answers_length _ n)

theorem Seq.count_eq (q : Seq) (ok : Bool) :
    q.count ok = { q with nfail := satAdd32 q.nfail (if ok then 0 else 1) } := by
  cases ok with
  | false => rfl
  | true => simp only [Seq.count, if_true, satAdd32_zero]

theorem microRun_add (m n : Nat) (s : State) : microRun (m + n) s = microRun n (microRun m s) := by
  induction m generalizing s with
  | zero => rw [Nat.zero_add, microRun]
  | succ m ih => rw [Nat.succ_add, microRun, microRun, ih]

/-! ### The edges of R131 -/

theorem microStep_ctrl (kind : Kind) (p : List Byte) (s : State) :
    microStep { s with framer := .ctrl kind p } = { s with framer := .payload kind p 0 } := rfl

theorem microStep_payload_of_lt (kind : Kind) {p : List Byte} {k : Nat} (h : k < p.length) (s : State) :
    microStep { s with framer := .payload kind p k } = { s with framer := .payload kind p (k + 1) } := if_pos h

theorem microStep_payload_length (kind : Kind) (p : List Byte) (s : State) :
    microStep { s with framer := .payload kind p p.length } = { s with framer := .wait (kind.ctrl :: p) } :=
  if_neg (Nat.lt_irrefl _)

/-- The edge that hands the assembled bytes to the Transport (R130). -/
theorem microStep_wait (bytes : List Byte) (s : State) :
    microStep { s with framer := .wait bytes } = { s.sent [bytes] with
      framer := .idle
      seq := { s.seq with nfail := satAdd32 s.seq.nfail (s.failures 1) } } := by
  have hedge : microStep { s with framer := .wait bytes } =
      { (transfer bytes s).2 with framer := .idle, seq := s.seq.count (transfer bytes s).1 } := rfl
  rw [hedge, transfer_eq, Seq.count_eq, State.failures_one]

theorem microRun_payload (kind : Kind) {p : List Byte} (j k : Nat) (h : k + j ≤ p.length) (s : State) :
    microRun j { s with framer := .payload kind p k } = { s with framer := .payload kind p (k + j) } := by
  induction j generalizing k with
  | zero => rfl
  | succ j ih =>
    rw [microRun, microStep_payload_of_lt kind (by omega), ih (k + 1) (by omega), Nat.add_right_comm]
    rfl

/-- One transfer, from `F_CTRL` to `F_IDLE`. -/
theorem microRun_ctrl (kind : Kind) (p : List Byte) (s : State) :
    microRun (p.length + 3) { s with framer := .ctrl kind p } = { s.sent [kind.ctrl :: p] with
      framer := .idle
      seq := { s.seq with nfail := satAdd32 s.seq.nfail (s.failures 1) } } := by
  have hpayload := microRun_payload kind p.length 0 (Nat.zero_add _).le s
  rw [Nat.zero_add] at hpayload
  calc microRun (p.length + 3) { s with framer := .ctrl kind p }
      = microRun (p.length + 2) { s with framer := .payload kind p 0 } := by rw [microRun, microStep_ctrl]
    _ = microRun 2 { s with framer := .payload kind p p.length } := by rw [microRun_add, hpayload]
    _ = microStep { s with framer := .wait (kind.ctrl :: p) } := by
      rw [microRun, microStep_payload_length, microRun, microRun]
    _ = _ := microStep_wait _ s

/-- Settles O36: `microRun_ctrl` at the framer that the state holds. -/
theorem framerDeliversOneTransfer : Obligations.FramerDeliversOneTransfer := by
  intro k p s hf
  have hctrl : k.ctrl = if k = .data then 0x40#8 else 0x00#8 := by cases k <;> rfl
  have hrun := microRun_ctrl k p s
  rw [← hf, hctrl] at hrun
  exact hrun

end Sys2Proof.Machine

/-! ## A command in micro-steps

SUPPORT for O60. From the state that `loadCommand` leaves, the sequencer runs the command's transfers, or its frames one
after another, and then answers; each lemma says what one of these stretches of micro-steps reaches. -/

namespace Sys2Proof.Machine

/-- Some number of micro-steps leads from `s` to `t`. -/
def State.MicroReaches (s t : State) : Prop := ∃ n, microRun n s = t

namespace State.MicroReaches

variable {s t u : State}

theorem refl (s : State) : s.MicroReaches s := ⟨0, rfl⟩

theorem of_step (h : microStep s = t) : s.MicroReaches t := ⟨1, h⟩

theorem trans (h : s.MicroReaches t) (h' : t.MicroReaches u) : s.MicroReaches u := by
  obtain ⟨m, rfl⟩ := h
  obtain ⟨n, rfl⟩ := h'
  exact ⟨m + n, microRun_add m n s⟩

end State.MicroReaches

/-- `s` with the framer idle and the sequencer at `q`: the states between one transfer and the next. -/
def State.atSeq (s : State) (q : Seq) : State := { s with framer := .idle, seq := q }

theorem State.atSeq_eq {s : State} {q : Seq} (hf : s.framer = .idle) (hq : s.seq = q) : s.atSeq q = s := by
  rw [State.atSeq, ← hf, ← hq]

section

variable (s : State) (ws : List Wire) (phase : Phase) (nfail : U32)

theorem replyFrame_okBit :
    replyFrame (s.atSeq ⟨ws, phase, nfail, .okBit⟩) = [okByte, boolByte s.status.lastOk] := rfl

theorem replyFrame_nfailByte :
    replyFrame (s.atSeq ⟨ws, phase, nfail, .nfailByte⟩) = [okByte, nfail.setWidth 8] := rfl

theorem replyFrame_anim :
    replyFrame (s.atSeq ⟨ws, phase, nfail, .anim⟩) = okByte :: (u32le s.anim.count ++ u32le nfail) := rfl

theorem replyFrame_frame (bytes : List Byte) : replyFrame (s.atSeq ⟨ws, phase, nfail, .frame bytes⟩) = bytes := rfl

end

/-! ### The sequencer's actions -/

theorem microStep_of_pending (s : State) (w : Wire) (ws : List Wire) (phase : Phase) (nfail : U32) (reply : Reply) :
    microStep (s.atSeq ⟨w :: ws, phase, nfail, reply⟩) =
      { s.atSeq ⟨ws, phase, nfail, reply⟩ with framer := .ctrl w.kind w.payload } := rfl

/-- Nothing is left to do: the response goes out. -/
theorem microStep_of_idle (s : State) (nfail : U32) (reply : Reply) :
    microStep (s.atSeq ⟨[], .idle, nfail, reply⟩) =
      respond (replyFrame (s.atSeq ⟨[], .idle, nfail, reply⟩)) (s.atSeq Seq.idle) := rfl

theorem microStep_of_render {s : State} (h : s.anim.index.toNat < s.anim.count.toNat) (nfail : U32) (reply : Reply) :
    microStep (s.atSeq ⟨[], .render, nfail, reply⟩) =
      (renderFrame Config.trig s.anim.index s).atSeq
        ⟨flushWires (renderFrame Config.trig s.anim.index s).fb, .send, nfail, reply⟩ := if_pos h

/-- Every frame has been rendered (R200). -/
theorem microStep_of_render_last {s : State} (h : s.anim.index = s.anim.count) (nfail : U32) (reply : Reply) :
    microStep (s.atSeq ⟨[], .render, nfail, reply⟩) = (endRun s).atSeq ⟨[], .idle, nfail, reply⟩ :=
  if_neg (by rw [State.atSeq, h]; exact Nat.lt_irrefl _)

theorem microStep_of_send (s : State) (nfail : U32) (reply : Reply) :
    microStep (s.atSeq ⟨[], .send, nfail, reply⟩) =
      (delayEvent s.anim.delay s).atSeq ⟨[], .pace, nfail, reply⟩ := rfl

theorem microStep_of_pace (s : State) (nfail : U32) (reply : Reply) :
    microStep (s.atSeq ⟨[], .pace, nfail, reply⟩) = (nextFrame s).atSeq ⟨[], .render, nfail, reply⟩ := rfl

/-! ### Transfers -/

/-- All pending transfers are issued in order, each by the framer's edges, and their failures counted. -/
theorem microReaches_sent (ws : List Wire) (s : State) (phase : Phase) (nfail : U32) (reply : Reply) :
    (s.atSeq ⟨ws, phase, nfail, reply⟩).MicroReaches
      ((s.sent (ws.map Wire.bytes)).atSeq ⟨[], phase, satAdd32 nfail (s.failures ws.length), reply⟩) := by
  induction ws generalizing s nfail with
  | nil =>
    have hnone : s.failures 0 = 0 := rfl
    rw [List.map_nil, State.sent_nil, List.length_nil, hnone, satAdd32_zero]
    exact .refl _
  | cons w ws ih =>
    have hstart := State.MicroReaches.of_step (microStep_of_pending s w ws phase nfail reply)
    have hsend := microRun_ctrl w.kind w.payload (s.atSeq ⟨ws, phase, nfail, reply⟩)
    have hrest := ih (s.sent [w.bytes]) (satAdd32 nfail (s.failures 1))
    rw [State.sent_cons, satAdd32_satAdd32, ← State.failures_succ] at hrest
    exact hstart.trans (.trans ⟨_, hsend⟩ hrest)

theorem State.sent_singleton_lastOk (s : State) (bs : List Byte) :
    (s.sent [bs]).status.lastOk = s.transport.answerAt 0 := by
  rw [State.sent_status, List.length_singleton, Transport.answers_succ, Transport.answers_zero, Status.after_cons,
    Status.after_nil, Transport.answerAt_zero]
  rfl

/-- A `nfail` counted from 0 that has not saturated, as the response byte has it. -/
theorem satAdd32_zero_setWidth {n : Nat} (h : n ≤ 0xFFFFFFFF) : (satAdd32 0 n).setWidth 8 = BitVec.ofNat 8 n := by
  have hmin : min ((0 : U32).toNat + n) 0xFFFFFFFF = n := by
    rw [BitVec.ofNat_eq_ofNat, BitVec.toNat_ofNat, Nat.zero_mod, Nat.zero_add, Nat.min_eq_left h]
  rw [satAdd32, hmin, BitVec.setWidth_ofNat_of_le (by decide)]

section

variable {s : State}

/-- A list of transfers from its loading to its response. -/
theorem microReaches_loadWires (hf : s.framer = .idle) (hq : s.seq = Seq.idle) (ws : List Wire) (reply : Reply) :
    (loadWires ws reply s).MicroReaches
      (respond (replyFrame ((s.sent (ws.map Wire.bytes)).atSeq
        ⟨[], .idle, satAdd32 0 (s.failures ws.length), reply⟩)) (s.sent (ws.map Wire.bytes))) := by
  have hload : s.atSeq ⟨ws, .idle, 0, reply⟩ = loadWires ws reply s := by rw [State.atSeq, ← hf]; rfl
  have hsent := microReaches_sent ws s .idle 0 reply
  have hanswer := microStep_of_idle (s.sent (ws.map Wire.bytes)) (satAdd32 0 (s.failures ws.length)) reply
  rw [State.atSeq_eq (s := s.sent _) (q := Seq.idle) hf hq] at hanswer
  exact hload ▸ hsent.trans (.of_step hanswer)

theorem microReaches_sendAndCount (hf : s.framer = .idle) (hq : s.seq = Seq.idle) {ws : List Wire}
    (hws : ws.length ≤ 0xFFFFFFFF) : (loadWires ws .nfailByte s).MicroReaches (sendAndCount ws s) := by
  have hreach := microReaches_loadWires hf hq ws .nfailByte
  rw [replyFrame_nfailByte, satAdd32_zero_setWidth ((s.failures_le _).trans hws)] at hreach
  rw [sendAndCount_eq]
  exact hreach

theorem microReaches_sendAndReport (hf : s.framer = .idle) (hq : s.seq = Seq.idle) (w : Wire) :
    (loadWires [w] .okBit s).MicroReaches (sendAndReport w s) := by
  have hreach := microReaches_loadWires hf hq [w] .okBit
  rw [replyFrame_okBit, List.map_singleton, State.sent_singleton_lastOk] at hreach
  rw [sendAndReport_eq]
  exact hreach

/-! ### The animation -/

theorem animTick_nfail (g : Trig) (nfail : U32) (s : State) :
    (animTick g nfail s).1 = satAdd32 nfail
      ((renderFrame g s.anim.index s).failures (flushWires (renderFrame g s.anim.index s).fb).length) := by
  simp only [animTick, sendAll_eq]

/-- One frame: it is rendered, its transfers are sent, it is held, and `FRAME_INDEX` moves on (R210). -/
theorem microReaches_animTick (h : s.anim.index.toNat < s.anim.count.toNat) (nfail : U32) (reply : Reply) :
    (s.atSeq ⟨[], .render, nfail, reply⟩).MicroReaches
      ((animTick Config.trig nfail s).2.atSeq ⟨[], .render, (animTick Config.trig nfail s).1, reply⟩) := by
  have hrender := State.MicroReaches.of_step (microStep_of_render h nfail reply)
  have hsent := microReaches_sent (flushWires (renderFrame Config.trig s.anim.index s).fb)
    (renderFrame Config.trig s.anim.index s) .send nfail reply
  rw [animTick_state, animTick_nfail]
  exact hrender.trans (hsent.trans (.trans (.of_step (microStep_of_send _ _ reply))
    (.of_step (microStep_of_pace _ _ reply))))

/-- The next `k` frames, as long as that many are left. -/
theorem microReaches_animLoop (k : Nat) (h : s.anim.index.toNat + k ≤ s.anim.count.toNat) (nfail : U32)
    (reply : Reply) :
    (s.atSeq ⟨[], .render, nfail, reply⟩).MicroReaches
      ((animLoop Config.trig k nfail s).2.atSeq ⟨[], .render, (animLoop Config.trig k nfail s).1, reply⟩) := by
  induction k generalizing s nfail with
  | zero => exact .refl _
  | succ k ih =>
    have hanim : (animTick Config.trig nfail s).2.anim = { s.anim with index := s.anim.index + 1 } := by
      rw [animTick_state]
      rfl
    have hindex : (s.anim.index + 1).toNat = s.anim.index.toNat + 1 := by
      have := s.anim.count.isLt
      exact BitVec.toNat_add_of_lt (by simp; omega)
    refine (microReaches_animTick (by omega) nfail reply).trans (ih ?_ _)
    simp only [hanim, hindex]
    omega

/-- A run of `n` frames from its loading to its response (R213). -/
theorem microReaches_runAnimation (hf : s.framer = .idle) (hq : s.seq = Seq.idle) (n : U32) (fps : F64) :
    (loadRun n fps s).MicroReaches (runAnimation Config.trig n fps s) := by
  have hload : (startRun n fps s).atSeq ⟨[], .render, 0, .anim⟩ = loadRun n fps s := by
    rw [State.atSeq, ← hf]
    rfl
  have hloop := microReaches_animLoop (s := startRun n fps s) n.toNat (Nat.zero_add _).le 0 .anim
  obtain ⟨fb, status, trace, transport, -, -, hframe⟩ := animLoop_frame Config.trig n.toNat 0 (startRun n fps s)
  rw [hload] at hloop
  rw [runAnimation]
  generalize animLoop Config.trig n.toNat 0 (startRun n fps s) = r at hloop hframe ⊢
  have hcount : r.2.anim.count = n := by rw [hframe]; rfl
  have hindex : r.2.anim.index = r.2.anim.count := by rw [hcount, hframe]; simp
  have hend : (endRun r.2).atSeq Seq.idle = endRun r.2 := by
    apply State.atSeq_eq
    · rw [hframe]; exact hf
    · rw [hframe]; exact hq
  have hanswer := microStep_of_idle (endRun r.2) r.1 .anim
  rw [hend] at hanswer
  simp only [replyFrame_anim, endRun_anim, hcount] at hanswer
  exact hloop.trans (.trans (.of_step (microStep_of_render_last hindex r.1 .anim)) (.of_step hanswer))

end

/-! ### Every host command -/

section

variable {i : Instr} {s u : State}

theorem HostEffect.port_eq (h : HostEffect i s u) : u.port = s.port := by cases h <;> rfl

theorem HostEffect.framer_eq (h : HostEffect i s u) : u.framer = s.framer := by cases h <;> rfl

theorem HostEffect.seq_eq (h : HostEffect i s u) : u.seq = s.seq := by cases h <;> rfl

end

theorem loadTransfers_microReaches {i : Instr} {s l t : State} (hf : s.framer = .idle) (hq : s.seq = Seq.idle)
    (hl : loadTransfers i s = some l) (ht : exec i s = .next t) :
    l.responses = s.responses ∧ l.port = s.port ∧ l.trace = s.trace ∧ l.MicroReaches t := by
  cases i with
  | sendCmd | sendData =>
    cases hl; cases ht
    exact ⟨rfl, rfl, rfl, microReaches_sendAndReport hf hq _⟩
  | initDisplay | clearDisplay | flush | beginSession =>
    cases hl; cases ht
    exact ⟨rfl, rfl, rfl, microReaches_sendAndCount hf hq (by simp)⟩
  | runAnim duration fps =>
    simp only [loadTransfers, exec, execRunAnim] at hl ht
    split at hl <;> cases hl
    next n hn =>
      simp only [hn] at ht
      cases ht
      exact ⟨rfl, rfl, rfl, microReaches_runAnimation hf hq n fps⟩
  | _ => cases hl

/-- A host command that transfers nothing leaves no event. -/
theorem exec_trace_of_loadTransfers_none {i : Instr} {s t : State} (hi : i.isHost = true)
    (hl : loadTransfers i s = none) (ht : exec i s = .next t) : t.trace = s.trace := by
  cases i with
  | sendCmd | sendData | initDisplay | clearDisplay | flush | beginSession => cases hl
  | runAnim duration fps =>
    simp only [loadTransfers, exec, execRunAnim] at hl ht
    split at hl <;> cases hl
    next code hcode =>
      simp only [hcode] at ht
      cases ht
      rfl
  | _ =>
    obtain ⟨-, -, -, -, htrace, -⟩ := commandsWriteOnlyTheirState _ s t hi ht
    by_contra hne
    cases htrace (.inl hne)

/-- Between commands, a host command that transfers nothing is complete but for its response, which the next micro-step
emits (R58 item 1). -/
theorem microStep_owing {i : Instr} {s t : State} (hi : i.isHost = true) (hf : s.framer = .idle) (hq : s.seq = Seq.idle)
    (ht : exec i s = .next t) : microStep (owing s t) = t := by
  obtain ⟨frame, u, hu, rfl⟩ := exec_hostEffect hi ht
  have huf : u.framer = .idle := hu.framer_eq.trans hf
  have huq : u.seq = Seq.idle := hu.seq_eq.trans hq
  have howing : owing s (respond frame u) = u.atSeq ⟨[], .idle, 0, .frame frame⟩ := by
    rw [owing_respond frame s u hu.responses_eq hu.port_eq, hq, State.atSeq, ← huf]
    rfl
  rw [howing, microStep_of_idle, replyFrame_frame, State.atSeq_eq huf huq]

/-- Settles O60: a command that transfers is run by the sequencer to what `exec` gives (`loadTransfers_microReaches`),
and any other has only its response left (`microStep_owing`). -/
theorem microStepsReachTheResult : Obligations.MicroStepsReachTheResult := by
  intro i s t hi hf hq ht
  cases hl : loadTransfers i s with
  | some l =>
    have hload : loadCommand i s = .next l := by simp only [loadCommand, hl]
    obtain ⟨hresp, hport, htrace, n, hn⟩ := loadTransfers_microReaches hf hq hl ht
    exact ⟨l, n, hload, hresp, hport, htrace, hn⟩
  | none =>
    have hload : loadCommand i s = .next (owing s t) := by simp only [loadCommand, hl, ht]
    have htrace := exec_trace_of_loadTransfers_none hi hl ht
    exact ⟨owing s t, 1, hload, rfl, rfl, htrace, microStep_owing hi hf hq ht⟩

end Sys2Proof.Machine

/-! ## The frame buffer

SUPPORT for the obligations of 42_framebuffer.md. A pixel is one bit of one byte (R51), so each operation's pixels are
read off its bytes: those of SET_PIXEL and DECODE_PAGE by reads after writes, those of ENCODE_PAGE off the byte of FB that
a column's bits make up again (`encodeColumn_eq_readByte`). -/

namespace Sys2Proof.Machine

namespace Memory

variable {m : Memory}

/-! ### Bytes and pixels -/

theorem readByte_cons_of_wfFrom {lo k : Nat} {b : Byte} {rest : Memory} (hm : wfFrom lo ((k, b) :: rest) = true)
    (a : Nat) : readByte ((k, b) :: rest) a = if a = k then b else rest.readByte a := by
  obtain ⟨_, _, hb, hr⟩ := (wfFrom_cons ..).1 hm
  have hcell : Memory.cons k b rest = (k, b) :: rest := if_neg hb
  rw [← hcell, readByte_consCell b hr]

theorem head_le_of_readByte_ne_zero {lo k a : Nat} {b : Byte} {rest : Memory}
    (hm : wfFrom lo ((k, b) :: rest) = true) (ha : readByte ((k, b) :: rest) a ≠ 0#8) : k ≤ a := by
  obtain ⟨_, hcell⟩ := (wfFrom_cons ..).1 hm
  have hmk : wfFrom k ((k, b) :: rest) = true := (wfFrom_cons ..).2 ⟨le_rfl, hcell⟩
  exact Nat.le_of_not_lt fun hlt => ha (readByte_below hmk hlt)

theorem eq_of_readByte_wfFrom {lo : Nat} {m' : Memory} (hm : wfFrom lo m = true) (hm' : wfFrom lo m' = true)
    (h : ∀ a, m.readByte a = m'.readByte a) : m = m' := by
  induction m generalizing lo m' with
  | nil =>
    cases m' with
    | nil => rfl
    | cons c' rest' =>
      obtain ⟨_, _, hb', _⟩ := (wfFrom_cons ..).1 hm'
      exact absurd (by simpa [readByte] using (h c'.1).symm) hb'
  | cons c rest ih =>
    obtain ⟨k, b⟩ := c
    have hread := readByte_cons_of_wfFrom hm
    obtain ⟨_, _, hb, hr⟩ := (wfFrom_cons ..).1 hm
    cases m' with
    | nil => exact absurd (by simpa [readByte] using h k) hb
    | cons c' rest' =>
      obtain ⟨k', b'⟩ := c'
      have hread' := readByte_cons_of_wfFrom hm'
      obtain ⟨_, _, hb', hr'⟩ := (wfFrom_cons ..).1 hm'
      obtain rfl : k = k' := Nat.le_antisymm
        (head_le_of_readByte_ne_zero hm (by simpa [h, hread'] using hb'))
        (head_le_of_readByte_ne_zero hm' (by simpa [← h, hread] using hb))
      have hbb : b = b' := by simpa [hread, hread'] using h k
      have hrest : rest = rest' := by
        refine ih hr hr' fun a => ?_
        by_cases ha : a = k
        · rw [ha, readByte_below hr k.lt_succ_self, readByte_below hr' k.lt_succ_self]
        · simpa [hread, hread', ha] using h a
      rw [hbb, hrest]

/-- Canonical frame buffers that read alike are equal. -/
theorem eq_of_readByte {m' : Memory} (hm : m.wf = true) (hm' : m'.wf = true)
    (h : ∀ a, m.readByte a = m'.readByte a) : m = m' := eq_of_readByte_wfFrom hm hm' h

@[simp] theorem zero_pixel (x y : Nat) : Memory.zero.pixel x y = false := by simp [pixel]

/-- The pixels of a page are the bits of its bytes (R51). -/
theorem pixel_page (m : Memory) (p c : Nat) {n : Nat} (hn : n < 8) :
    m.pixel c (8 * p + n) = (m.readByte (pageAddr p c)).getLsbD n := by
  have hpage : (8 * p + n) / 8 = p := by omega
  have hbit : (8 * p + n) % 8 = n := by omega
  rw [pixel, pixelAddr, hpage, hbit]

/-! ### SET_PIXEL (R161) -/

theorem getLsbD_one_shiftLeft (k : Nat) {n : Nat} (hn : n < 8) : (1#8 <<< k).getLsbD n = decide (n = k) := by
  rw [← BitVec.twoPow_eq, BitVec.getLsbD_eq_getElem hn, BitVec.getElem_twoPow]

theorem pixelAddr_inj {x y x' y' : Nat} (hx : x < 128) (hx' : x' < 128) :
    pixelAddr x' y' = pixelAddr x y ↔ x' = x ∧ y' / 8 = y / 8 := by
  unfold pixelAddr pageAddr
  omega

/-- SET_PIXEL sets its pixel, where the screen has it, and no other. -/
theorem pixel_setPixel (hm : m.wf = true) (x y : Int) {x' y' : Nat} (hx' : x' < 128) (hy' : y' < 64) :
    (m.setPixel x y).pixel x' y' = (m.pixel x' y' || decide ((x' : Int) = x ∧ (y' : Int) = y)) := by
  unfold setPixel
  split
  case isTrue hon =>
    obtain ⟨hx0, hx, hy0, hy⟩ := (onScreen_iff x y).1 hon
    lift x to Nat using hx0
    lift y to Nat using hy0
    simp only [Int.toNat_natCast, Int.natCast_inj, pixel, readByte_writeByte hm,
      pixelAddr_inj (show x < 128 by omega) hx']
    by_cases hbyte : x' = x ∧ y' / 8 = y / 8
    · obtain ⟨rfl, hpage⟩ := hbyte
      have haddr : pixelAddr x' y' = pixelAddr x' y := (pixelAddr_inj hx' hx').2 ⟨rfl, hpage⟩
      have hbit : y' % 8 = y % 8 ↔ y' = y := by omega
      have hflag : (1#8 <<< (y % 8)).getLsbD (y' % 8) = decide (y' = y) := by
        simp [getLsbD_one_shiftLeft _ (Nat.mod_lt y' (by decide)), hbit]
      simp [hpage, haddr, hflag]
    · have hne : ¬(x' = x ∧ y' = y) := by omega
      simp [hbyte, hne]
  case isFalse hoff =>
    rw [onScreen_iff] at hoff
    have hne : ¬((x' : Int) = x ∧ (y' : Int) = y) := by omega
    simp [hne]

theorem setPixel_of_off (m : Memory) {x y : Int} (h : ¬(0 ≤ x ∧ x < 128 ∧ 0 ≤ y ∧ y < 64)) : m.setPixel x y = m :=
  if_neg (mt (onScreen_iff x y).1 h)

/-! ### ENCODE_PAGE (R162) -/

theorem getLsbD_boolByte_shiftLeft (b : Bool) (k : Nat) {n : Nat} (hn : n < 8) :
    (boolByte b <<< k).getLsbD n = (b && decide (n = k)) := by
  cases b
  · simp [boolByte]
  · exact getLsbD_one_shiftLeft k hn

/-- The OR of flags shifted to their places holds each at its place. -/
theorem getLsbD_foldl_or_shiftLeft (f : Nat → Bool) (k : Nat) {n : Nat} (hn : n < 8) :
    ((List.range k).foldl (fun acc i => acc ||| boolByte (f i) <<< i) 0#8).getLsbD n = (decide (n < k) && f n) := by
  induction k with
  | zero => simp
  | succ k ih =>
    rw [List.range_succ, List.foldl_append]
    simp only [List.foldl_cons, List.foldl_nil, BitVec.getLsbD_or, ih, getLsbD_boolByte_shiftLeft _ _ hn]
    rcases Nat.lt_trichotomy n k with h | h | h
    · simp [h, h.ne, Nat.lt_succ_of_lt h]
    · simp [h]
    · simp [h.ne', h.not_gt, Nat.not_lt.2 h]

theorem getLsbD_encodeColumn (m : Memory) (p c : Nat) {n : Nat} (hn : n < 8) :
    (m.encodeColumn p c).getLsbD n = m.pixel c (8 * p + n) := by
  rw [encodeColumn, getLsbD_foldl_or_shiftLeft _ 8 hn, Nat.mul_comm]
  simp [hn]

/-- A column's bits make up the byte of FB they were read from. -/
theorem encodeColumn_eq_readByte (m : Memory) (p c : Nat) : m.encodeColumn p c = m.readByte (pageAddr p c) :=
  BitVec.eq_of_getLsbD_eq fun _ hn => (getLsbD_encodeColumn m p c hn).trans (pixel_page m p c hn)

@[simp] theorem encodePage_length (m : Memory) (p : Nat) : (m.encodePage p).length = 128 := by simp [encodePage]

theorem encodePage_getD (m : Memory) (p : Nat) {c : Nat} (hc : c < 128) :
    (m.encodePage p).getD c 0#8 = m.encodeColumn p c := by
  simp [encodePage, hc]

/-- Bit n of byte c is pixel (c, 8p + n). -/
theorem getLsbD_encodePage (m : Memory) (p : Nat) {c n : Nat} (hc : c < 128) (hn : n < 8) :
    ((m.encodePage p).getD c 0#8).getLsbD n = m.pixel c (8 * p + n) := by
  rw [encodePage_getD m p hc, getLsbD_encodeColumn m p c hn]

/-- A page's encoding is decided by its pixels. -/
theorem encodePage_congr {m' : Memory} {p : Nat}
    (h : ∀ c n : Nat, c < 128 → n < 8 → m.pixel c (8 * p + n) = m'.pixel c (8 * p + n)) :
    m.encodePage p = m'.encodePage p := by
  refine List.map_congr_left fun c hc => BitVec.eq_of_getLsbD_eq fun n hn => ?_
  rw [getLsbD_encodeColumn m p c hn, getLsbD_encodeColumn m' p c hn, h c n (List.mem_range.1 hc) hn]

theorem zero_encodePage (p : Nat) : Memory.zero.encodePage p = List.replicate 128 0x00#8 := by
  have hcol : Memory.zero.encodeColumn p = fun _ => 0#8 := funext fun c => encodeColumn_eq_readByte Memory.zero p c
  rw [encodePage, hcol, List.map_const', List.length_range]

/-! ### DECODE_PAGE (R163) -/

theorem pageAddr_lt {p c : Nat} (hp : p < 8) (hc : c < 128) : pageAddr p c < 1024 := by
  unfold pageAddr
  omega

theorem pageAddr_inj {p x c : Nat} : pageAddr p x = pageAddr p c ↔ x = c := Nat.add_left_cancel_iff

/-- Writing columns `c` on of a page: a byte of the page reads as written, or as before where its column comes before
`c` or after the last one written. -/
theorem readByte_decodeFrom_pageAddr {p : Nat} (hp : p < 8) (ds : List Byte) {c : Nat} (hc : c + ds.length ≤ 128)
    (hm : m.wf = true) (x : Nat) : (decodeFrom p c ds m).readByte (pageAddr p x) =
      if x < c then m.readByte (pageAddr p x) else ds.getD (x - c) (m.readByte (pageAddr p x)) := by
  induction ds generalizing c m with
  | nil => simp [decodeFrom]
  | cons d ds ih =>
    rw [List.length_cons] at hc
    have hwrite : (m.writeByte (pageAddr p c) d).wf = true := writeByte_wf d (pageAddr_lt hp (by omega)) hm
    have hc' : c + 1 + ds.length ≤ 128 := by omega
    simp only [decodeFrom, ih hc' hwrite, readByte_writeByte hm, pageAddr_inj]
    rcases Nat.lt_trichotomy x c with h | h | h
    · simp [h, h.ne, Nat.lt_succ_of_lt h]
    · simp [h]
    · obtain ⟨k, rfl⟩ := Nat.exists_eq_add_of_lt h
      have hlt : ¬c + k + 1 < c + 1 := by omega
      have hsub : c + k + 1 - c = k + 1 ∧ c + k + 1 - (c + 1) = k := by omega
      simp [h.ne', h.not_gt, hlt, hsub]

/-- A byte of the page reads as written. -/
theorem readByte_decodePage_pageAddr (hm : m.wf = true) {p : Nat} (hp : p < 8) (d : List Byte) {c : Nat}
    (hc : c < 128) : (m.decodePage p d).readByte (pageAddr p c) = d.getD c 0#8 := by
  rw [decodePage, readByte_decodeFrom_pageAddr hp _ (by simp) hm]
  simp [hc]

/-- DECODE_PAGE overwrites the pixels of its page and leaves every other. -/
theorem pixel_decodePage (hm : m.wf = true) {p : Nat} (hp : p < 8) (d : List Byte) {x : Nat} (hx : x < 128) (y : Nat) :
    (m.decodePage p d).pixel x y = if y / 8 = p then (d.getD x 0#8).getLsbD (y % 8) else m.pixel x y := by
  unfold pixel pixelAddr
  split
  case isTrue hpage => rw [hpage, readByte_decodePage_pageAddr hm hp d hx]
  case isFalse hpage =>
    rw [readByte_decodePage_of_outside hm hp]
    unfold pageAddr
    omega

/-- Decoding what a page encodes to changes nothing. -/
theorem decodePage_encodePage (hm : m.wf = true) {p : Nat} (hp : p < 8) : m.decodePage p (m.encodePage p) = m := by
  refine eq_of_readByte (decodePage_wf hm hp _) hm fun a => ?_
  by_cases ha : pageAddr p 0 ≤ a ∧ a < pageAddr p 0 + 128
  · obtain ⟨c, rfl⟩ := Nat.exists_eq_add_of_le ha.1
    have hc : c < 128 := by omega
    change readByte _ (pageAddr p c) = m.readByte (pageAddr p c)
    rw [readByte_decodePage_pageAddr hm hp _ hc, encodePage_getD m p hc, encodeColumn_eq_readByte]
  · exact readByte_decodePage_of_outside hm hp _ ha

/-- A page encodes to the bytes it was decoded from. -/
theorem encodePage_decodePage (hm : m.wf = true) {p : Nat} (hp : p < 8) {b : List Byte} (hb : b.length = 128) :
    (m.decodePage p b).encodePage p = b := by
  refine List.ext_getElem (by simp [hb]) fun c hc hcb => ?_
  rw [encodePage_length] at hc
  have h := readByte_decodePage_pageAddr hm hp b hc
  simpa [encodePage, encodeColumn_eq_readByte, hcb] using h

end Memory

/-- Settles O42: each law is the encoder's or the decoder's own. -/
theorem encoderDecoderLaws : Obligations.EncoderDecoderLaws := fun m p hm hp =>
  ⟨Memory.decodePage_encodePage hm hp, fun _ hb => Memory.encodePage_decodePage hm hp hb,
    fun _ _ hc hn => Memory.getLsbD_encodePage m p hc hn, fun _ h => Memory.encodePage_congr h,
    Memory.zero_encodePage p⟩

/-! ### The commands -/

theorem exec_fbZero (s : State) :
    exec .fbZero s = .next (({ s with fb := Memory.zero } : State).answered [0x00#8]) := rfl

theorem exec_setPixel (x y : U16) (s : State) :
    exec (.setPixel x y) s = .next (({ s with fb := s.fb.setPixel x.toInt y.toInt } : State).answered [0x00#8]) := rfl

theorem exec_encodePage_of_lt {page : Byte} (h : 7 < page.toNat) (s : State) :
    exec (.encodePage page) s = .next (s.answered [0x03#8]) := if_pos h

theorem exec_encodePage_of_le {page : Byte} (h : page.toNat ≤ 7) (s : State) :
    exec (.encodePage page) s = .next (s.answered (0x00#8 :: s.fb.encodePage page.toNat)) := if_neg h.not_gt

theorem exec_decodePage_of_lt {page : Byte} (h : 7 < page.toNat) (d : List Byte) (s : State) :
    exec (.decodePage page d) s = .next (s.answered [0x03#8]) := if_pos h

theorem exec_decodePage_of_le {page : Byte} (h : page.toNat ≤ 7) (d : List Byte) (s : State) :
    exec (.decodePage page d) s =
      .next (({ s with fb := s.fb.decodePage page.toNat d } : State).answered [0x00#8]) := if_neg h.not_gt

theorem exec_flush (s : State) : exec .flush s = .next (sendAndCount (flushWires s.fb) s) := rfl

/-- Settles O38: FB becomes the zero frame buffer. -/
theorem fbZeroClearsEveryPixel : Obligations.FbZeroClearsEveryPixel :=
  ⟨fun _ => rfl, fun s => ⟨Memory.zero, exec_fbZero s, fun x y _ _ => Memory.zero_pixel x y, Memory.zero_readByte⟩⟩

/-- Settles O39: the pixels after `setPixel` (`Memory.pixel_setPixel`), and the dropped write off the screen. -/
theorem setPixelSetsOnePixel : Obligations.SetPixelSetsOnePixel := by
  refine ⟨fun x y rest => ?_, fun x y s hfb => ⟨_, exec_setPixel x y s, fun x' y' hx' hy' => ?_, fun hoff => ?_⟩⟩
  · rw [leHalf_eq_u16le, leHalf_eq_u16le]
    exact decodeHost_encode Config.defaultInitSeq (i := .setPixel x y) rfl rfl rest
  · exact Memory.pixel_setPixel hfb x.toInt y.toInt hx' hy'
  · exact s.fb.setPixel_of_off hoff

/-- Settles O40: the one check of the page, then the encoder's bytes (`Memory.getLsbD_encodePage`). -/
theorem encodePageReadsItsRows : Obligations.EncodePageReadsItsRows :=
  ⟨fun _ _ => rfl, fun page s => ⟨fun h => exec_encodePage_of_lt h s, fun h =>
    ⟨s.fb.encodePage page.toNat, exec_encodePage_of_le h s, s.fb.encodePage_length _,
      fun _ _ hc hn => s.fb.getLsbD_encodePage _ hc hn⟩⟩⟩

/-- Settles O41: the one check of the page, then the decoder's write (`Memory.pixel_decodePage`). -/
theorem decodePageWritesItsRows : Obligations.DecodePageWritesItsRows :=
  ⟨fun page _ rest hd => decodeOperands_decodePage page hd rest, fun _ d s hfb _ =>
    ⟨fun h => exec_decodePage_of_lt h d s, fun h => ⟨_, exec_decodePage_of_le h d s, fun _ y hx _ =>
      Memory.pixel_decodePage hfb (Nat.lt_succ_of_le h) d hx y⟩⟩⟩

/-- Settles O31: FLUSH is the composite command of the eight pages of FB. -/
theorem flushSendsTheFrameBuffer : Obligations.FlushSendsTheFrameBuffer := by
  refine ⟨fun _ => rfl, fun s => ?_⟩
  rw [exec_flush, sendAndCount_eq, flushWires_length, flushWires, pageWires_map_bytes]

end Sys2Proof.Machine

/-! ## The rasterizer

SUPPORT for the obligations of 43_rasterizer.md. The loop has a closed form: with `N` the greater of the two distances,
its step `n` stands on each axis at the distance `d` of that axis times `n / N`, rounded to the nearest whole step, halves
up (`lineOffset`). That the loop's two tests on `err` keep to it is `lineNext_lineStateAt`; the points' properties are
then facts about `lineOffset`. -/

namespace Sys2Proof.Machine

/-! ### One axis in closed form -/

/-- The steps taken along an axis of distance `d` after `n` of `N` iterations. -/
def lineOffset (N d n : Nat) : Nat := (2 * n * d + N) / (2 * N)

section

variable {N d : Nat}

@[simp] theorem lineOffset_zero (N d : Nat) : lineOffset N d 0 = 0 := by
  rw [lineOffset, Nat.mul_zero, Nat.zero_mul, Nat.zero_add]
  rcases N.eq_zero_or_pos with rfl | hN
  · rfl
  · exact Nat.div_eq_of_lt (by omega)

@[simp] theorem lineOffset_distance_zero (N n : Nat) : lineOffset N 0 n = 0 := lineOffset_zero N 0

/-- The division that `lineOffset` stands for. -/
theorem le_lineOffset_iff (hN : 0 < N) (k d n : Nat) : k ≤ lineOffset N d n ↔ 2 * k * N ≤ 2 * n * d + N := by
  rw [lineOffset, Nat.le_div_iff_mul_le (by omega)]
  ring_nf

theorem lineOffset_self (hN : 0 < N) (n : Nat) : lineOffset N N n = n := by
  apply Nat.le_antisymm
  · rw [← Nat.lt_succ_iff, ← Nat.not_le, le_lineOffset_iff hN]
    linarith
  · rw [le_lineOffset_iff hN]
    exact Nat.le_add_right ..

theorem lineOffset_self_of_le {n : Nat} (hn : n ≤ N) : lineOffset N N n = n := by
  rcases N.eq_zero_or_pos with rfl | hN
  · rw [Nat.le_zero.1 hn, lineOffset_zero]
  · exact lineOffset_self hN n

theorem lineOffset_last (hd : d ≤ N) : lineOffset N d N = d := by
  rw [lineOffset, mul_right_comm, ← lineOffset, lineOffset_self_of_le hd]

theorem lineOffset_mono (N d : Nat) : Monotone (lineOffset N d) := fun m n h => by
  unfold lineOffset
  gcongr

theorem lineOffset_le_succ (N d n : Nat) : lineOffset N d n ≤ lineOffset N d (n + 1) := lineOffset_mono N d n.le_succ

theorem lineOffset_le (hd : d ≤ N) {n : Nat} (hn : n ≤ N) : lineOffset N d n ≤ d :=
  (lineOffset_mono N d hn).trans_eq (lineOffset_last hd)

theorem lineOffset_succ_le (hN : 0 < N) (hd : d ≤ N) (n : Nat) : lineOffset N d (n + 1) ≤ lineOffset N d n + 1 := by
  by_contra h
  have hlow : lineOffset N d n + 1 + 1 ≤ lineOffset N d (n + 1) := by omega
  have hhigh : ¬lineOffset N d n + 1 ≤ lineOffset N d n := by omega
  rw [le_lineOffset_iff hN] at hlow hhigh
  linarith

/-- The test by which the loop steps along the axis of distance `d`, the other axis having distance `e`: always on the
longer axis, and on the shorter one where its rounded offset grows. -/
theorem lineOffset_steps_iff {e : Nat} (hmax : N = max d e) (hN : 0 < N) (n : Nat) :
    (2 * lineOffset N d n + 1) * e ≤ 2 * (lineOffset N e n + 1) * d ↔
      lineOffset N d (n + 1) = lineOffset N d n + 1 := by
  rcases max_choice d e with h | h
  · obtain rfl : N = d := hmax.trans h
    have he : e ≤ N := max_eq_left_iff.1 h
    have hhigh : ¬lineOffset N e n + 1 ≤ lineOffset N e n := by omega
    rw [le_lineOffset_iff hN] at hhigh
    simp only [lineOffset_self hN, iff_true]
    linarith
  · obtain rfl : N = e := hmax.trans h
    have hd : d ≤ N := max_eq_right_iff.1 h
    have hstep : lineOffset N d (n + 1) = lineOffset N d n + 1 ↔ lineOffset N d n + 1 ≤ lineOffset N d (n + 1) :=
      ⟨Eq.ge, (lineOffset_succ_le hN hd n).antisymm⟩
    rw [hstep, le_lineOffset_iff hN, lineOffset_self hN]
    constructor <;> intro <;> linarith

/-- What an iteration adds to a variable that grows by `z` when the axis steps. -/
theorem ite_lineOffset_steps (hN : 0 < N) (hd : d ≤ N) (n : Nat) (z : Int) :
    (if lineOffset N d (n + 1) = lineOffset N d n + 1 then z else 0) =
      z * (lineOffset N d (n + 1) - lineOffset N d n) := by
  have hle := lineOffset_le_succ N d n
  have hsucc := lineOffset_succ_le hN hd n
  split
  case isTrue h => simp [h]
  case isFalse h => simp [show lineOffset N d (n + 1) = lineOffset N d n by omega]

end

/-- The step direction along an axis from `u` to `v`. -/
def axisStep (u v : Int) : Int := if u < v then 1 else -1

/-- The coordinate after `n` of `N` iterations along an axis from `u` to `v`. -/
def axisCoord (u v : Int) (N n : Nat) : Int := u + axisStep u v * lineOffset N (v - u).natAbs n

theorem axisStep_eq_or (u v : Int) : axisStep u v = 1 ∨ axisStep u v = -1 := ite_eq_or_eq ..

theorem axisStep_mul_distance (u v : Int) : axisStep u v * (v - u).natAbs = v - u := by
  unfold axisStep
  split <;> omega

section

variable {u v : Int} {N n : Nat}

@[simp] theorem axisCoord_zero (u v : Int) (N : Nat) : axisCoord u v N 0 = u := by simp [axisCoord]

theorem axisCoord_last (hd : (v - u).natAbs ≤ N) : axisCoord u v N N = v := by
  rw [axisCoord, lineOffset_last hd, axisStep_mul_distance, add_sub_cancel]

theorem axisCoord_between (hd : (v - u).natAbs ≤ N) (hn : n ≤ N) :
    min u v ≤ axisCoord u v N n ∧ axisCoord u v N n ≤ max u v := by
  have hle := lineOffset_le hd hn
  unfold axisCoord axisStep
  split <;> omega

theorem axisCoord_succ_sub_natAbs_le (hN : 0 < N) (hd : (v - u).natAbs ≤ N) (n : Nat) :
    (axisCoord u v N (n + 1) - axisCoord u v N n).natAbs ≤ 1 := by
  have hle := lineOffset_le_succ N (v - u).natAbs n
  have hsucc := lineOffset_succ_le hN hd n
  unfold axisCoord
  rcases axisStep_eq_or u v with h | h <;> rw [h] <;> omega

theorem axisCoord_injective (hd : N = (v - u).natAbs) (hN : 0 < N) : Function.Injective (axisCoord u v N) := by
  intro m n h
  unfold axisCoord at h
  rw [← hd, lineOffset_self hN, lineOffset_self hN] at h
  rcases axisStep_eq_or u v with hs | hs <;> rw [hs] at h <;> omega

/-- On an axis that is not stepped or is stepped every time, the way back meets the same coordinates. -/
theorem axisCoord_reverse (hd : (v - u).natAbs = 0 ∨ (v - u).natAbs = N) (hn : n ≤ N) :
    axisCoord v u N (N - n) = axisCoord u v N n := by
  have hdist : (u - v).natAbs = (v - u).natAbs := by omega
  unfold axisCoord axisStep
  rw [hdist]
  rcases hd with hd | hd
  · rw [hd, lineOffset_distance_zero, lineOffset_distance_zero]
    omega
  · rw [hd, lineOffset_self_of_le hn, lineOffset_self_of_le (Nat.sub_le ..)]
    split <;> split <;> omega

end

/-! ### The loop in closed form -/

/-- An iteration: each variable grows by what the tests of R180 give it. -/
theorem lineNext_eq (c : LineSetup) (p : LineState) : lineNext c p =
    ⟨p.x0 + if c.dy ≤ 2 * p.err then c.sx else 0, p.y0 + if 2 * p.err ≤ c.dx then c.sy else 0,
      p.err + (if c.dy ≤ 2 * p.err then c.dy else 0) + if 2 * p.err ≤ c.dx then c.dx else 0⟩ := by
  unfold lineNext
  by_cases hx : c.dy ≤ 2 * p.err <;> by_cases hy : 2 * p.err ≤ c.dx <;> simp [hx, hy]

/-- The number of iterations that R182 gives a line. -/
def lineLength (a b : Vertex) : Nat := max (b.x - a.x).natAbs (b.y - a.y).natAbs

/-- The steps in x after `n` iterations. -/
def lineCol (a b : Vertex) (n : Nat) : Nat := lineOffset (lineLength a b) (b.x - a.x).natAbs n

/-- The steps in y after `n` iterations. -/
def lineRow (a b : Vertex) (n : Nat) : Nat := lineOffset (lineLength a b) (b.y - a.y).natAbs n

/-- The point that a line plots after `n` iterations. -/
def linePoint (a b : Vertex) (n : Nat) : Vertex :=
  ⟨axisCoord a.x b.x (lineLength a b) n, axisCoord a.y b.y (lineLength a b) n⟩

/-- The loop's variables after `n` iterations. -/
def lineStateAt (a b : Vertex) (n : Nat) : LineState :=
  { x0 := (linePoint a b n).x
    y0 := (linePoint a b n).y
    err := (lineRow a b n + 1) * (lineSetup a b).dx + (lineCol a b n + 1) * (lineSetup a b).dy }

section

variable {a b : Vertex}

theorem natAbs_x_le_lineLength (a b : Vertex) : (b.x - a.x).natAbs ≤ lineLength a b := le_max_left ..

theorem natAbs_y_le_lineLength (a b : Vertex) : (b.y - a.y).natAbs ≤ lineLength a b := le_max_right ..

theorem linePoint_eq (a b : Vertex) (n : Nat) : linePoint a b n =
    ⟨a.x + (lineSetup a b).sx * lineCol a b n, a.y + (lineSetup a b).sy * lineRow a b n⟩ := rfl

/-- The loop's first test decides whether x steps. -/
theorem lineCol_steps_iff (h : 0 < lineLength a b) (n : Nat) :
    (lineSetup a b).dy ≤ 2 * (lineStateAt a b n).err ↔ lineCol a b (n + 1) = lineCol a b n + 1 := by
  have hsteps : (2 * lineCol a b n + 1) * (b.y - a.y).natAbs ≤ 2 * (lineRow a b n + 1) * (b.x - a.x).natAbs ↔
      lineCol a b (n + 1) = lineCol a b n + 1 := lineOffset_steps_iff rfl h n
  rw [← hsteps, ← Int.ofNat_le]
  simp only [lineStateAt, lineSetup]
  push_cast
  constructor <;> intro <;> linarith

/-- The loop's second test decides whether y steps. -/
theorem lineRow_steps_iff (h : 0 < lineLength a b) (n : Nat) :
    2 * (lineStateAt a b n).err ≤ (lineSetup a b).dx ↔ lineRow a b (n + 1) = lineRow a b n + 1 := by
  have hsteps : (2 * lineRow a b n + 1) * (b.x - a.x).natAbs ≤ 2 * (lineCol a b n + 1) * (b.y - a.y).natAbs ↔
      lineRow a b (n + 1) = lineRow a b n + 1 := lineOffset_steps_iff (max_comm ..) h n
  rw [← hsteps, ← Int.ofNat_le]
  simp only [lineStateAt, lineSetup]
  push_cast
  constructor <;> intro <;> linarith

/-- One iteration of the loop goes to the next state of the closed form: each test adds the step it decides. -/
theorem lineNext_lineStateAt (h : 0 < lineLength a b) (n : Nat) :
    lineNext (lineSetup a b) (lineStateAt a b n) = lineStateAt a b (n + 1) := by
  have hcol (z : Int) : (if lineCol a b (n + 1) = lineCol a b n + 1 then z else 0) =
      z * (lineCol a b (n + 1) - lineCol a b n) := ite_lineOffset_steps h (natAbs_x_le_lineLength a b) n z
  have hrow (z : Int) : (if lineRow a b (n + 1) = lineRow a b n + 1 then z else 0) =
      z * (lineRow a b (n + 1) - lineRow a b n) := ite_lineOffset_steps h (natAbs_y_le_lineLength a b) n z
  simp only [lineNext_eq, lineCol_steps_iff h, lineRow_steps_iff h, hcol, hrow]
  simp only [lineStateAt, linePoint_eq, LineState.mk.injEq]
  exact ⟨by ring, by ring, by ring⟩

theorem linePoint_zero (a b : Vertex) : linePoint a b 0 = a := by simp [linePoint]

theorem linePoint_last (a b : Vertex) : linePoint a b (lineLength a b) = b := by
  rw [linePoint, axisCoord_last (natAbs_x_le_lineLength a b), axisCoord_last (natAbs_y_le_lineLength a b)]

theorem linePoint_injective (h : 0 < lineLength a b) : Function.Injective (linePoint a b) := by
  intro m n hmn
  obtain ⟨hx, hy⟩ := Vertex.mk.inj hmn
  rcases max_choice (b.x - a.x).natAbs (b.y - a.y).natAbs with hd | hd
  · exact axisCoord_injective hd h hx
  · exact axisCoord_injective hd h hy

/-- The stop test holds in the last state alone. -/
theorem lineStateAt_stops_iff {n : Nat} (hn : n ≤ lineLength a b) :
    ((lineStateAt a b n).x0 = (lineSetup a b).x1 ∧ (lineStateAt a b n).y0 = (lineSetup a b).y1) ↔
      n = lineLength a b := by
  have hpoint : ((lineStateAt a b n).x0 = (lineSetup a b).x1 ∧ (lineStateAt a b n).y0 = (lineSetup a b).y1) ↔
      linePoint a b n = b := (Vertex.mk.injEq ..).to_iff.symm
  rw [hpoint]
  constructor
  · intro h
    rcases Nat.eq_zero_or_pos (lineLength a b) with h0 | h0
    · omega
    · exact linePoint_injective h0 (h.trans (linePoint_last a b).symm)
  · rintro rfl
    exact linePoint_last a b

theorem lineLoop_lineStateAt (k n : Nat) (hkn : n + k = lineLength a b) :
    lineLoop (lineSetup a b) (k + 1) (lineStateAt a b n) = (List.range' n (k + 1)).map (linePoint a b) := by
  have hstops := lineStateAt_stops_iff (a := a) (b := b) (n := n) (by omega)
  induction k generalizing n with
  | zero =>
    rw [lineLoop, if_pos (hstops.2 (by omega))]
    rfl
  | succ k ih =>
    rw [lineLoop, if_neg (mt hstops.1 (by omega)), lineNext_lineStateAt (by omega),
      ih (n + 1) (by omega) (lineStateAt_stops_iff (by omega)), List.range'_succ, List.map_cons]
    rfl

/-- The plotted points in closed form. -/
theorem linePoints_eq (a b : Vertex) :
    linePoints a b = (List.range (lineLength a b + 1)).map (linePoint a b) := by
  have hinit : lineStateAt a b 0 = ⟨a.x, a.y, (lineSetup a b).dx + (lineSetup a b).dy⟩ := by
    simp [lineStateAt, linePoint_zero, lineCol, lineRow]
  have hfuel : max (lineSetup a b).dx.toNat (-(lineSetup a b).dy).toNat = lineLength a b := by
    simp only [lineSetup, neg_neg, Int.toNat_natCast, lineLength]
  rw [List.range_eq_range', ← lineLoop_lineStateAt _ 0 (Nat.zero_add _), hinit, ← hfuel]
  rfl

theorem linePoints_length (a b : Vertex) : (linePoints a b).length = lineLength a b + 1 := by simp [linePoints_eq]

theorem mem_linePoints_iff {p : Vertex} : p ∈ linePoints a b ↔ ∃ n ≤ lineLength a b, linePoint a b n = p := by
  simp [linePoints_eq]

theorem linePoints_head? (a b : Vertex) : (linePoints a b).head? = some a := by
  rw [linePoints_eq, List.head?_map, List.head?_range, if_neg (Nat.succ_ne_zero _), Option.map_some, linePoint_zero]

theorem linePoints_getLast? (a b : Vertex) : (linePoints a b).getLast? = some b := by
  rw [linePoints_eq, List.getLast?_map, List.getLast?_range, if_neg (Nat.succ_ne_zero _), Option.map_some,
    Nat.add_sub_cancel, linePoint_last]

theorem linePoints_getElem? {k : Nat} {p : Vertex} (h : (linePoints a b)[k]? = some p) :
    k ≤ lineLength a b ∧ linePoint a b k = p := by
  rw [linePoints_eq, List.getElem?_map, Option.map_eq_some_iff] at h
  obtain ⟨n, hn, rfl⟩ := h
  obtain ⟨hk, rfl⟩ := List.getElem?_eq_some_iff.1 hn
  rw [List.length_range] at hk
  exact ⟨Nat.le_of_lt_succ hk, by rw [List.getElem_range]⟩

theorem linePoints_nodup (a b : Vertex) : (linePoints a b).Nodup := by
  rcases Nat.eq_zero_or_pos (lineLength a b) with h | h
  · rw [linePoints_eq, h]
    exact List.nodup_singleton _
  · rw [linePoints_eq]
    exact List.nodup_range.map (linePoint_injective h)

end

/-- Settles O45: the properties of the closed form's points (`linePoints_eq`). -/
theorem linePointsCountAndShape : Obligations.LinePointsCountAndShape := by
  intro a b
  refine ⟨linePoints_length a b, linePoints_head? a b, linePoints_getLast? a b, fun k p q hp hq => ?_, fun p hp => ?_,
    linePoints_nodup a b⟩
  · obtain ⟨-, rfl⟩ := linePoints_getElem? hp
    obtain ⟨hk, rfl⟩ := linePoints_getElem? hq
    have hN : 0 < lineLength a b := by omega
    exact ⟨axisCoord_succ_sub_natAbs_le hN (natAbs_x_le_lineLength a b) k,
      axisCoord_succ_sub_natAbs_le hN (natAbs_y_le_lineLength a b) k,
      (linePoint_injective hN).ne k.succ_ne_self.symm⟩
  · obtain ⟨n, hn, rfl⟩ := mem_linePoints_iff.1 hp
    obtain ⟨hxmin, hxmax⟩ := axisCoord_between (natAbs_x_le_lineLength a b) hn
    obtain ⟨hymin, hymax⟩ := axisCoord_between (natAbs_y_le_lineLength a b) hn
    exact ⟨hxmin, hxmax, hymin, hymax⟩

/-! ### The loop as a relation (R180) -/

/-- A loop whose last point is the far endpoint has run to its stop. -/
theorem lineLoop_bresenhamRun (c : LineSetup) (fuel : Nat) (p : LineState)
    (h : (lineLoop c fuel p).getLast? = some ⟨c.x1, c.y1⟩) :
    BresenhamRun c.x1 c.y1 c.dx c.dy c.sx c.sy p.x0 p.y0 p.err (lineLoop c fuel p) := by
  induction fuel generalizing p with
  | zero => cases h
  | succ fuel ih =>
    rw [lineLoop] at h ⊢
    by_cases hend : p.x0 = c.x1 ∧ p.y0 = c.y1
    · rw [if_pos hend, hend.1, hend.2]
      exact .stop _
    · rw [if_neg hend] at h ⊢
      have hrest : (lineLoop c fuel (lineNext c p)).getLast? = some ⟨c.x1, c.y1⟩ := by
        rw [List.getLast?_cons] at h
        cases hl : (lineLoop c fuel (lineNext c p)).getLast? with
        | none => rw [hl] at h; exact absurd (Vertex.mk.inj (Option.some.inj h)) hend
        | some q => rwa [hl] at h
      refine .next _ _ _ (p.err + if c.dy ≤ 2 * p.err then c.dy else 0) _ _ _ _ hend ?_ ?_ (ih _ hrest)
      · rw [lineNext_eq]
        split <;> simp
      · rw [lineNext_eq]
        split <;> split <;> simp

theorem exec_drawLine (x0 y0 x1 y1 : U16) (s : State) : exec (.drawLine x0 y0 x1 y1) s =
    .next (({ s with fb := s.fb.drawLine ⟨x0.toInt, y0.toInt⟩ ⟨x1.toInt, y1.toInt⟩ } : State).answered [0x00#8]) := rfl

/-- Settles O44: the loop ends at the far endpoint (`linePoints_getLast?`), so it is a complete run
(`lineLoop_bresenhamRun`). -/
theorem drawLineRunsTheLoopToItsEnd : Obligations.DrawLineRunsTheLoopToItsEnd := by
  refine ⟨fun x0 y0 x1 y1 rest => ?_, fun a b => ?_, exec_drawLine⟩
  · simp only [leHalf_eq_u16le]
    exact decodeHost_encode Config.defaultInitSeq (i := .drawLine x0 y0 x1 y1) rfl rfl rest
  · simp only [← Int.natCast_natAbs]
    exact lineLoop_bresenhamRun (lineSetup a b) _ _ (linePoints_getLast? a b)

/-! ### The error term (R183) -/

/-- Settles O46: in each case of the two tests the new `err` of `lineNext_eq` is in range. -/
theorem lineErrorStaysInRange : Obligations.LineErrorStaysInRange := by
  refine ⟨fun a b => ?_, fun c p hdy hdx hlow hhigh => ?_⟩
  · simp only [lineSetup]
    omega
  · simp only [lineNext_eq]
    split <;> split <;> omega

/-! ### The pixels of a line (R181, R185) -/

/-- Plotting a list of points sets the on-screen ones and no other pixel. -/
theorem Memory.pixel_foldl_setPixel (ps : List Vertex) {m : Memory} (hm : m.wf = true) {x y : Nat} (hx : x < 128)
    (hy : y < 64) : (ps.foldl (fun fb p => fb.setPixel p.x p.y) m).pixel x y =
      (m.pixel x y || decide ((⟨x, y⟩ : Vertex) ∈ ps)) := by
  induction ps generalizing m with
  | nil => simp
  | cons p ps ih =>
    have hp : (⟨x, y⟩ : Vertex) = p ↔ (x : Int) = p.x ∧ (y : Int) = p.y := (Vertex.mk.injEq ..).to_iff
    rw [List.foldl_cons, ih (setPixel_wf hm p.x p.y), pixel_setPixel hm p.x p.y hx hy]
    simp [List.mem_cons, hp, Bool.or_assoc]

/-- Settles O47: a line plots its list of points (`Memory.pixel_foldl_setPixel`). -/
theorem lineSetsExactlyItsPoints : Obligations.LineSetsExactlyItsPoints := fun _ a b _ _ hm hx hy =>
  Memory.pixel_foldl_setPixel (linePoints a b) hm hx hy

/-! ### Both directions of a line (R184) -/

/-- A line is straight when each axis is not stepped or is stepped by every iteration. -/
theorem straight_distances {a b : Vertex} (h : a.y = b.y ∨ a.x = b.x ∨ (b.x - a.x).natAbs = (b.y - a.y).natAbs) :
    ((b.x - a.x).natAbs = 0 ∨ (b.x - a.x).natAbs = lineLength a b) ∧
      ((b.y - a.y).natAbs = 0 ∨ (b.y - a.y).natAbs = lineLength a b) := by
  unfold lineLength
  omega

theorem lineLength_comm (a b : Vertex) : lineLength b a = lineLength a b := by
  unfold lineLength
  omega

/-- The way back along a straight line plots every point of the way there. -/
theorem mem_linePoints_reverse {a b : Vertex}
    (h : a.y = b.y ∨ a.x = b.x ∨ (b.x - a.x).natAbs = (b.y - a.y).natAbs) {p : Vertex} (hp : p ∈ linePoints a b) :
    p ∈ linePoints b a := by
  obtain ⟨n, hn, rfl⟩ := mem_linePoints_iff.1 hp
  obtain ⟨hx, hy⟩ := straight_distances h
  refine mem_linePoints_iff.2 ⟨lineLength a b - n, by rw [lineLength_comm]; omega, ?_⟩
  rw [linePoint, lineLength_comm, axisCoord_reverse hx hn, axisCoord_reverse hy hn, linePoint]

/-- Settles O48: the two lists of the rule are computed, and on a straight line each direction plots the other's points
(`mem_linePoints_reverse`). -/
theorem linesAsymmetricInGeneralSymmetricIfStraight : Obligations.LinesAsymmetricInGeneralSymmetricIfStraight := by
  refine ⟨by decide, fun a b h p => ⟨mem_linePoints_reverse h, mem_linePoints_reverse ?_⟩⟩
  omega

end Sys2Proof.Machine

/-! ## The readings of a binary64 pattern

SUPPORT for the obligations of 44_animation.md on binary64 (R12, R208, R209): the tests and roundings to an integer of
Machine/Float64.lean are those of the number a pattern denotes. Each is read off `unpack` (`value?_some`), so the one
question left is about `m * 2^e`, an integer or a quotient as `e` is. -/

namespace Sys2Proof
namespace F64

theorem natCast_mul_zpow_of_nonneg (m : Nat) {e : Int} (he : 0 ≤ e) :
    (m : ℚ) * (2 : ℚ) ^ e = ((m * 2 ^ e.toNat : Nat) : ℚ) := by
  obtain ⟨k, rfl⟩ := Int.eq_ofNat_of_zero_le he
  simp

theorem natCast_mul_zpow_of_neg (m : Nat) {e : Int} (he : ¬0 ≤ e) :
    (m : ℚ) * (2 : ℚ) ^ e = (m : ℚ) / ((2 ^ (-e).toNat : Nat) : ℚ) := by
  obtain ⟨k, hk⟩ := Int.eq_ofNat_of_zero_le (show 0 ≤ -e by omega)
  obtain rfl : e = -(k : Int) := by omega
  simp [div_eq_mul_inv]

theorem signedQ_mul_zpow_of_nonneg (s : Bool) (m : Nat) {e : Int} (he : 0 ≤ e) :
    signedQ s (m * (2 : ℚ) ^ e) = ((signed s m * 2 ^ e.toNat : Int) : ℚ) := by
  rw [natCast_mul_zpow_of_nonneg m he, Int.cast_mul, signed_signedQ]
  cases s <;> simp [signedQ]

theorem signedQ_mul_zpow_of_neg (s : Bool) (m : Nat) {e : Int} (he : ¬0 ≤ e) :
    signedQ s (m * (2 : ℚ) ^ e) = (signed s m : ℚ) / ((2 ^ (-e).toNat : Nat) : ℚ) := by
  rw [natCast_mul_zpow_of_neg m he, signed_signedQ]
  cases s <;> simp [signedQ, neg_div]

theorem signed_tdiv (s : Bool) (m k : Nat) : signed s (m / k) = (signed s m).tdiv k := by
  cases s <;> simp [signed, Int.neg_tdiv]

/-- Toward zero: down from a number that is not negative, up from a negative one. -/
theorem tdiv_eq_floor_or_ceil (n : Int) {d : Nat} (hd : 0 < d) :
    n.tdiv d = if 0 ≤ (n / d : ℚ) then ⌊(n / d : ℚ)⌋ else ⌈(n / d : ℚ)⌉ := by
  have hsign : 0 ≤ (n / d : ℚ) ↔ 0 ≤ n := by
    rw [le_div_iff₀ (Nat.cast_pos.2 hd), zero_mul, Int.cast_nonneg_iff]
  by_cases hn : 0 ≤ n
  · rw [if_pos (hsign.2 hn), Rat.floor_intCast_div_natCast, Int.tdiv_eq_ediv_of_nonneg hn]
  · have hneg : 0 ≤ -n := by omega
    rw [if_neg (mt hsign.1 hn), Rat.ceil_intCast_div_natCast, ← Int.tdiv_eq_ediv_of_nonneg hneg, Int.neg_tdiv, neg_neg]

section

variable {a : F64} {v : ℚ}

/-! ### A pattern that denotes a number -/

theorem floor?_of_value? (h : a.value? = some v) : a.floor? = some ⌊v⌋ := by
  obtain ⟨s, m, e, hu, rfl⟩ := value?_some h
  simp only [floor?, hu]
  by_cases he : 0 ≤ e
  · rw [if_pos he, signedQ_mul_zpow_of_nonneg s m he, Int.floor_intCast]
  · rw [if_neg he, signedQ_mul_zpow_of_neg s m he, Rat.floor_intCast_div_natCast, Nat.cast_pow, Nat.cast_ofNat]

theorem trunc_of_value? (h : a.value? = some v) : a.trunc = if 0 ≤ v then ⌊v⌋ else ⌈v⌉ := by
  obtain ⟨s, m, e, hu, rfl⟩ := value?_some h
  simp only [trunc, trunc?, hu, Option.getD_some]
  by_cases he : 0 ≤ e
  · rw [if_pos he, signedQ_mul_zpow_of_nonneg s m he, Int.floor_intCast, Int.ceil_intCast, ite_self]
  · rw [if_neg he, signedQ_mul_zpow_of_neg s m he, signed_tdiv, tdiv_eq_floor_or_ceil _ (Nat.two_pow_pos _)]

theorem gtZero_iff_of_value? (h : a.value? = some v) : a.gtZero = true ↔ 0 < v := by
  obtain ⟨s, m, e, hu, rfl⟩ := value?_some h
  have hp : (0 : ℚ) < (2 : ℚ) ^ e := by positivity
  simp only [gtZero, hu]
  cases s with
  | false => simp [signedQ, hp, Nat.pos_iff_ne_zero]
  | true => simpa [signedQ] using mul_nonneg (Nat.cast_nonneg m) hp.le

theorem inUnit_iff_of_value? (h : a.value? = some v) : a.inUnit = true ↔ |v| ≤ 1 := by
  obtain ⟨s, m, e, hu, rfl⟩ := value?_some h
  rw [abs_signedQ s (by positivity)]
  simp only [inUnit, hu]
  by_cases he : 0 ≤ e
  · rw [if_pos he, decide_eq_true_iff, natCast_mul_zpow_of_nonneg m he, Nat.cast_le_one]
  · rw [if_neg he, decide_eq_true_iff, natCast_mul_zpow_of_neg m he, div_le_one (Nat.cast_pos.2 (Nat.two_pow_pos _)),
      Nat.cast_le]

/-! ### The other patterns -/

theorem value?_eq_none_iff : a.value? = none ↔ unpack a = .nan ∨ ∃ s, unpack a = .inf s := by
  rw [value?_eq_unpack]
  cases unpack a <;> simp

theorem toNat_of_unpack_inf {s : Bool} (h : unpack a = .inf s) :
    a.toNat % 2 ^ 63 = 2047 * 2 ^ 52 ∧ a.msb = s := by
  simp only [unpack] at h
  split at h
  · split at h
    · cases h
      exact ⟨by omega, rfl⟩
    · cases h
  · split at h <;> cases h

theorem unpack_eq_inf_false_iff : unpack a = .inf false ↔ a = plusInf := by
  refine ⟨fun h => ?_, fun h => by rw [h, unpack_plusInf]⟩
  obtain ⟨hmag, hsign⟩ := toNat_of_unpack_inf h
  rw [msb_toNat, decide_eq_false_iff_not] at hsign
  exact BitVec.eq_of_toNat_eq (show a.toNat = 2047 * 2 ^ 52 by omega)

theorem floor?_eq_none_iff : a.floor? = none ↔ a.value? = none := by
  rw [value?_eq_unpack, floor?]
  cases unpack a <;> simp

theorem inUnit_of_value?_none (h : a.value? = none) : a.inUnit = false := by
  obtain hu | ⟨s, hu⟩ := value?_eq_none_iff.1 h
  · simp only [inUnit, hu]
  · simp only [inUnit, hu]

theorem gtZero_iff_of_value?_none (h : a.value? = none) : a.gtZero = true ↔ a = plusInf := by
  rw [← unpack_eq_inf_false_iff]
  obtain hu | ⟨s, hu⟩ := value?_eq_none_iff.1 h
  · simp [gtZero, hu]
  · simp [gtZero, hu]

/-- The patterns above 0.0 stand between +0.0 and the NaNs of a clear sign bit (R203). -/
theorem gtZero_iff_toNat : a.gtZero = true ↔ 0 < a.toNat ∧ a.toNat ≤ 0x7FF0000000000000 := by
  have ha := a.isLt
  have hsign : a.getLsbD 63 = decide (2 ^ 63 ≤ a.toNat) := msb_toNat a
  simp only [gtZero, unpack, hsign]
  by_cases hfield : a.toNat / 2 ^ 52 % 2048 = 2047
  · rw [if_pos hfield]
    by_cases hfrac : a.toNat % 2 ^ 52 = 0
    · simp only [if_pos hfrac, Bool.not_eq_true', decide_eq_false_iff_not]
      omega
    · simp only [if_neg hfrac, Bool.false_eq_true, false_iff]
      omega
  · rw [if_neg hfield]
    by_cases hzero : a.toNat / 2 ^ 52 % 2048 = 0
    · simp only [if_pos hzero, Bool.and_eq_true, Bool.not_eq_true', decide_eq_false_iff_not, bne_iff_ne]
      omega
    · simp only [if_neg hzero, Bool.and_eq_true, Bool.not_eq_true', decide_eq_false_iff_not, bne_iff_ne]
      omega

/-- A NaN, a zero, or a set sign bit (R203). -/
theorem gtZero_eq_false_of_pattern (h : (a.toNat / 2 ^ 52 % 2048 = 2047 ∧ a.toNat % 2 ^ 52 ≠ 0) ∨ a = 0#64 ∨
    a = 0x8000000000000000#64 ∨ a.msb = true) : a.gtZero = false := by
  rw [msb_toNat, decide_eq_true_iff] at h
  rw [Bool.eq_false_iff, ne_eq, gtZero_iff_toNat]
  obtain ⟨hfield, hfrac⟩ | rfl | rfl | hsign := h
  · omega
  · decide
  · decide
  · omega

end

/-! ### `f64(i)` is exact (R209) -/

/-- The leading bit of `m` brought to bit 52, the place it has in a significand. -/
theorem mul_two_pow_log2_bounds {m : Nat} (h0 : m ≠ 0) (hm : m < 2 ^ 53) :
    2 ^ 52 ≤ m * 2 ^ (52 - Nat.log2 m) ∧ m * 2 ^ (52 - Nat.log2 m) < 2 ^ 53 := by
  have hlog : Nat.log2 m < 53 := (Nat.log2_lt h0).2 hm
  have hlow := Nat.mul_le_mul_right (2 ^ (52 - Nat.log2 m)) (Nat.log2_self_le h0)
  have hhigh := Nat.mul_lt_mul_of_pos_right (Nat.lt_log2_self (n := m)) (Nat.two_pow_pos (52 - Nat.log2 m))
  rw [← Nat.pow_add] at hlow hhigh
  rw [show Nat.log2 m + (52 - Nat.log2 m) = 52 by omega] at hlow
  rw [show Nat.log2 m + 1 + (52 - Nat.log2 m) = 53 by omega] at hhigh
  exact ⟨hlow, hhigh⟩

/-- An integer of at most 53 bits is rounded to itself. -/
theorem round_value?_of_lt {m : Nat} (hm : m < 2 ^ 53) : (round false m 0).value? = some (m : ℚ) := by
  by_cases h0 : m = 0
  · rw [h0, round, if_pos rfl, withSign_value? false (by decide)]
    simp [signedQ, magnitude]
  have hlog : Nat.log2 m < 53 := (Nat.log2_lt h0).2 hm
  obtain ⟨hlow, hhigh⟩ := mul_two_pow_log2_bounds h0 hm
  have hscale : max ((Nat.log2 m : Int) + 0 - 52) (-1074) = (Nat.log2 m : Int) - 52 := by omega
  have hle : (Nat.log2 m : Int) - 52 ≤ 0 := by omega
  have hfield : ((Nat.log2 m : Int) - 52 + 1074).toNat = Nat.log2 m + 1022 := by omega
  have hshift : (0 - ((Nat.log2 m : Int) - 52)).toNat = 52 - Nat.log2 m := by omega
  have hround : round false m 0 = withSign false ((Nat.log2 m + 1022) * 2 ^ 52 + m * 2 ^ (52 - Nat.log2 m)) := by
    simp only [round, if_neg h0, hscale, if_pos hle, hfield, hshift]
    exact if_neg (by omega)
  have hvalue : ((m * 2 ^ (52 - Nat.log2 m) : Nat) : ℚ) * (2 : ℚ) ^ (((Nat.log2 m + 1022 : Nat) : Int) - 1074) = m := by
    rw [show ((Nat.log2 m + 1022 : Nat) : Int) - 1074 = -((52 - Nat.log2 m : Nat) : Int) by omega]
    simp
  rw [hround, withSign_value? false (by omega), magnitude_pack _ _ hhigh.le (.inr hlow), hvalue]
  rfl

theorem ofU32_value? (i : U32) : (ofU32 i).value? = some (i.toNat : ℚ) := by
  have hi := i.isLt
  exact round_value?_of_lt (by omega)

end F64

/-- Settles O51: `f64(i)` needs no rounding, and each reading is decided on the number or, where there is none, on the
kind of pattern. -/
theorem frameNumberAndReadingsAreExact : Obligations.FrameNumberAndReadingsAreExact :=
  ⟨F64.ofU32_value?,
    fun _ _ h => ⟨F64.floor?_of_value? h, F64.trunc_of_value? h, F64.gtZero_iff_of_value? h,
      F64.inUnit_iff_of_value? h⟩,
    fun _ h => ⟨F64.floor?_eq_none_iff.2 h, F64.inUnit_of_value?_none h, F64.gtZero_iff_of_value?_none h⟩⟩

end Sys2Proof

/-! ## The geometry of a frame

SUPPORT for O49, O50 and O53: the constants of R25 as patterns, and the apex of frame 0. Its base point has x-coordinate
`64.0 + 28.0 * COS(THETA0)`, which is 64.0 because half a step below 64.0 is wider than the product
(`add_cx_of_abs_lt`); everything after it is arithmetic on constants. -/

namespace Sys2Proof
namespace F64

/-! ### Constants (R25) -/

theorem cx_eq : cx = 0x4050000000000000#64 := by decide

theorem cy_eq : cy = 0x4040000000000000#64 := by decide

theorem radius_eq : radius = 0x403C000000000000#64 := by decide

theorem theta0_eq : theta0 = 0xBFF921FB54442D18#64 := by decide

theorem off150_eq : off150 = 0x4004F1A6C638D03F#64 := by decide

theorem angleStep_eq : angleStep = 0x3FA1DF46A2529D39#64 := by decide

theorem cx_value? : cx.value? = some 64 := by simpa [cx] using ofU32_value? 64

theorem radius_value? : radius.value? = some 28 := by simpa [radius] using ofU32_value? 28

theorem zero_value? : value? 0#64 = some 0 := by simp [value?]

theorem limitUnit_inUnit (v : F64) : (limitUnit v).inUnit = true := by
  unfold limitUnit
  split
  · assumption
  · exact (inUnit_iff_of_value? zero_value?).2 (by simp)

/-! ### Consequences of rounding to nearest -/

theorem lt_overflow {x : ℚ} (hx : |x| < 2 ^ 52) : |x| < 2 ^ 1024 - 2 ^ 970 := by
  have hone : (1 : ℚ) ≤ 2 ^ (971 : Int) := one_le_zpow₀ (by norm_num) (by norm_num)
  calc |x| < 2 ^ 52 := hx
    _ ≤ (2 ^ 53 - 1 / 2) * 1 := by norm_num
    _ ≤ (2 ^ 53 - 1 / 2) * 2 ^ (971 : Int) := mul_le_mul_of_nonneg_left hone (by norm_num)
    _ = 2 ^ 1024 - 2 ^ 970 := overflow_eq.symm

theorem IsNearest.exists_value? {p : F64} {x : ℚ} (h : p.IsNearest x) (hx : |x| < 2 ^ 52) :
    ∃ r, p.value? = some r := by
  cases hp : p.value? with
  | some r => exact ⟨r, rfl⟩
  | none =>
    simp only [IsNearest, hp] at h
    obtain ⟨hover, -⟩ := h
    exact absurd (lt_overflow hx) (not_lt.2 hover)

theorem IsNearest.abs_sub_le_of_value? {p q : F64} {x r w : ℚ} (h : p.IsNearest x) (hp : p.value? = some r)
    (hq : q.value? = some w) : |r - x| ≤ |w - x| := by
  simp only [IsNearest, hp] at h
  exact (h.2 q w hq).1

/-- Rounding does not pass a number that a pattern denotes. -/
theorem IsNearest.abs_le_of_value? {p q : F64} {x r b : ℚ} (h : p.IsNearest x) (hp : p.value? = some r)
    (hq : q.value? = some b) (hx : |x| ≤ b) : |r| ≤ b := by
  obtain ⟨hlow, hhigh⟩ := abs_le.1 hx
  have hup := h.abs_sub_le_of_value? hp hq
  have hdown := h.abs_sub_le_of_value? hp (neg_value? q b hq)
  rw [abs_of_nonneg (sub_nonneg.2 hhigh)] at hup
  rw [abs_of_nonpos (sub_nonpos.2 hlow)] at hdown
  obtain ⟨-, hle⟩ := abs_le.1 hup
  obtain ⟨hge, -⟩ := abs_le.1 hdown
  exact abs_le.2 ⟨by linarith, by linarith⟩

/-! ### The steps between the patterns -/

theorem magnitude_strictMono : StrictMono magnitude := by
  refine strictMono_nat_of_lt_succ fun k => ?_
  obtain ⟨j, sig, rfl, hsig, hj⟩ : ∃ j sig, k = j * 2 ^ 52 + sig ∧ sig < 2 ^ 53 ∧ (j = 0 ∨ 2 ^ 52 ≤ sig) :=
    ⟨k / 2 ^ 52 - 1, k - (k / 2 ^ 52 - 1) * 2 ^ 52, by omega, by omega, by omega⟩
  rw [Nat.add_assoc, magnitude_pack j sig hsig.le hj, magnitude_pack j (sig + 1) hsig (hj.imp_right Nat.le_succ_of_le)]
  have hp : (0 : ℚ) < (2 : ℚ) ^ ((j : Int) - 1074) := by positivity
  exact mul_lt_mul_of_pos_right (by simp) hp

/-- The neighbours of 64.0 are `2^-47` below and `2^-46` above it. -/
theorem eq_cx_of_value?_near {p : F64} {r : ℚ} (h : p.value? = some r) (hr : |r - 64| < 1 / 2 ^ 47) : p = cx := by
  have hprev : magnitude (0x4050000000000000 - 1) = 64 - 1 / 2 ^ 47 :=
    (magnitude_pack 1027 (2 ^ 53 - 1) (by decide) (by decide)).trans (by norm_num)
  have hnext : magnitude (0x4050000000000000 + 1) = 64 + 1 / 2 ^ 46 :=
    (magnitude_pack 1028 (2 ^ 52 + 1) (by decide) (by decide)).trans (by norm_num)
  obtain ⟨hlow, hhigh⟩ := abs_lt.1 hr
  rw [value?_eq] at h
  split at h
  · cases h
  · cases hs : p.msb with
    | true =>
      have := magnitude_nonneg (p.toNat % 2 ^ 63)
      simp only [hs, signedQ, if_true, Option.some.injEq] at h
      norm_num at hlow
      linarith
    | false =>
      simp only [hs, signedQ, Bool.false_eq_true, if_false, Option.some.injEq] at h
      have habove : 0x4050000000000000 - 1 < p.toNat % 2 ^ 63 :=
        magnitude_strictMono.lt_iff_lt.1 (by rw [hprev, h]; linarith)
      have hbelow : p.toNat % 2 ^ 63 < 0x4050000000000000 + 1 :=
        magnitude_strictMono.lt_iff_lt.1 (by rw [hnext, h]; norm_num at hhigh ⊢; linarith)
      rw [msb_toNat, decide_eq_false_iff_not] at hs
      rw [cx_eq]
      exact BitVec.eq_of_toNat_eq (show p.toNat = 0x4050000000000000 by omega)

/-- Half the narrower step at 64.0 is `2^-48`. -/
theorem add_cx_of_abs_lt {x : F64} {w : ℚ} (hx : x.value? = some w) (hw : |w| < 1 / 2 ^ 48) : add cx x = cx := by
  have hnear := add_isNearest cx x 64 w cx_value? hx
  have hsum : |64 + w| ≤ |64| + |w| := abs_add_le 64 w
  obtain ⟨r, hr⟩ := hnear.exists_value? (by norm_num at hsum hw ⊢; linarith)
  have hclose : |r - (64 + w)| ≤ |w| := by simpa using hnear.abs_sub_le_of_value? hr cx_value?
  refine eq_cx_of_value?_near hr ?_
  calc |r - 64| ≤ |r - (64 + w)| + |64 + w - 64| := abs_sub_le r (64 + w) 64
    _ ≤ |w| + |w| := by simpa using hclose
    _ < 1 / 2 ^ 47 := by norm_num at hw ⊢; linarith

/-- The greatest number the product can reach is below `31 * 2^-53`, which a pattern denotes. -/
theorem add_cx_mul_radius_of_abs_lt {x : F64} {v : ℚ} (hx : x.value? = some v) (hv : |v| < 12 / 10 ^ 17) :
    add cx (mul radius x) = cx := by
  have hnear := mul_isNearest radius x 28 v radius_value? hx
  have hprod : |28 * v| ≤ 31 / 2 ^ 53 := by
    rw [abs_mul]
    norm_num at hv ⊢
    linarith
  obtain ⟨w, hw⟩ := hnear.exists_value? (hprod.trans_lt (by norm_num))
  have hbound : value? 0x3CEF000000000000#64 = some (31 / 2 ^ 53) := by
    norm_num [value?, BitVec.msb_eq_decide]
  refine add_cx_of_abs_lt hw ((hnear.abs_le_of_value? hw hbound hprod).trans_lt (by norm_num))

end F64

/-! ### The apex of frame 0 -/

theorem frameAngle_zero : frameAngle 0#64 0#32 = 0#64 := by decide

/-- With `COS = 1.0` and `SIN = 0.0` the rotation leaves the base point (64.0, 4.0) where it is. -/
theorem rotate_identity_apex :
    (rotate 0x3FF0000000000000#64 0#64 ⟨F64.cx, 0x4010000000000000#64⟩).trunc = ⟨64, 4⟩ := by
  decide +kernel

theorem add_cy_mul_radius_neg_one :
    F64.add F64.cy (F64.mul F64.radius 0xBFF0000000000000#64) = 0x4010000000000000#64 := by
  decide

/-- Settles O50: the base point is (64.0, 4.0), and the rotation by frame 0's angle, +0.0, keeps it. -/
theorem frameZeroApexIsCentreTop : Obligations.FrameZeroApexIsCentreTop := by
  intro g v hcos hsin hv hlt hsin0
  have hbase : basePoint g F64.theta0 = ⟨F64.cx, 0x4010000000000000#64⟩ := by
    rw [basePoint, F64.add_cx_mul_radius_of_abs_lt hv hlt, hsin0, add_cy_mul_radius_neg_one]
  simp only [triangleOf, frameVertex, frameAngle_zero, hcos, hsin, hbase]
  exact rotate_identity_apex

/-- Settles O53: both are values held to the limit. -/
theorem trigValuesLieInUnitRange : Obligations.TrigValuesLieInUnitRange := fun _ =>
  ⟨F64.limitUnit_inUnit _, F64.limitUnit_inUnit _⟩

end Sys2Proof

/-! ## The animation commands

SUPPORT for O49, O54, O55 and O58: TRIANGLE, DRAW_FRAME and ANIM_STATUS (R205, R206, R214) and the validation of
RUN_ANIM (R203). Each command has one lemma that says what it answers; the rest is its result bytes, the pixels of a triangle's
image, and which operands the validation refuses. -/

namespace Sys2Proof.Machine

/-! ### Results as bytes (R52) -/

theorem leBytes_add (m n v : Nat) : leBytes (m + n) v = leBytes m v ++ leBytes n (v / 256 ^ m) := by
  induction m generalizing v with
  | zero => simp [leBytes]
  | succ m ih => rw [Nat.succ_add, leBytes, leBytes, ih, Nat.div_div_eq_div_mul, ← Nat.pow_succ', List.cons_append]

theorem leBytes_mod (n v : Nat) : leBytes n (v % 256 ^ n) = leBytes n v := by
  simpa [leNat_leBytes] using leBytes_leNat (leBytes n v)

theorem le16_eq_i16le (v : Int) : le16 v = i16le v := by
  have hlow : (BitVec.ofInt 16 v).setWidth 8 = BitVec.ofInt 8 v := by bv_omega
  have hhigh : (BitVec.ofInt 16 v >>> 8).setWidth 8 = BitVec.ofInt 8 (v / 256) := by bv_omega
  rw [i16le, ← leHalf_eq_u16le, leHalf, hlow, hhigh, le16]

theorem le32_eq_u32le (v : U32) : le32 v = u32le v := by
  have h1 : (v >>> 8).setWidth 8 = BitVec.ofNat 8 (v.toNat / 256) := by bv_omega
  have h2 : (v >>> 16).setWidth 8 = BitVec.ofNat 8 (v.toNat / 256 / 256) := by bv_omega
  have h3 : (v >>> 24).setWidth 8 = BitVec.ofNat 8 (v.toNat / 256 / 256 / 256) := by bv_omega
  simp [le32, u32le, leBytes, h1, h2, h3]

theorem le64_eq_f64le (v : F64) : le64 v = f64le v := by
  have hlow : (v.setWidth 32).toNat = v.toNat % 256 ^ 4 := BitVec.toNat_setWidth ..
  have hhigh : ((v >>> 32).setWidth 32).toNat = v.toNat / 256 ^ 4 % 256 ^ 4 := by
    rw [BitVec.toNat_setWidth, BitVec.toNat_ushiftRight, Nat.shiftRight_eq_div_pow]
    rfl
  rw [le64, le32_eq_u32le, le32_eq_u32le, u32le, u32le, hlow, hhigh, leBytes_mod, leBytes_mod, ← leBytes_add, f64le]

/-! ### TRIANGLE, DRAW_FRAME and ANIM_STATUS (R205, R206, R214) -/

theorem exec_triangle (idx : U32) (s : State) : exec (.triangle idx) s =
    .next (s.answered (0x00#8 :: triangleBytes (triangleOf Config.trig s.params.baseAngle idx))) := rfl

theorem exec_drawFrame (idx : U32) (s : State) : exec (.drawFrame idx) s = .next
    (({ s with fb := triangleImage (triangleOf Config.trig s.params.baseAngle idx) } : State).answered [0x00#8]) := rfl

theorem exec_animStatus (s : State) : exec .animStatus s =
    .next (s.answered ([0x00#8, s.anim.state.byte] ++ u32le s.anim.index ++ u32le s.anim.count)) := rfl

theorem pixel_triangleImage (t : Triangle) {x y : Nat} (hx : x < 128) (hy : y < 64) :
    (triangleImage t).pixel x y = decide ((⟨x, y⟩ : Vertex) ∈ linePoints t.v0 t.v1 ∨
      (⟨x, y⟩ : Vertex) ∈ linePoints t.v1 t.v2 ∨ (⟨x, y⟩ : Vertex) ∈ linePoints t.v2 t.v0) := by
  have h0 : Memory.zero.wf = true := Memory.zero_wf
  have h1 := Memory.drawLine_wf h0 t.v0 t.v1
  have h2 := Memory.drawLine_wf h1 t.v1 t.v2
  rw [triangleImage, lineSetsExactlyItsPoints _ _ _ x y h2 hx hy, lineSetsExactlyItsPoints _ _ _ x y h1 hx hy,
    lineSetsExactlyItsPoints _ _ _ x y h0 hx hy]
  simp [Bool.or_assoc]

/-- Settles O49: the result bytes are the coordinates in two's complement, and the formulas are the definitions with the
constants evaluated. -/
theorem triangleAnswersSixCoordinates : Obligations.TriangleAnswersSixCoordinates := by
  refine ⟨fun idx rest => ?_, fun idx s => ⟨_, rfl, ?_⟩, fun g base i => ?_⟩
  · rw [le32_eq_u32le]
    exact decodeHost_encode Config.defaultInitSeq (i := .triangle idx) rfl rfl rest
  · simp only [exec_triangle, le16_eq_i16le, triangleBytes]
  · simp only [triangleOf, frameVertex, frameAngle, rotate, basePoint, Point.trunc, F64.cx_eq, F64.cy_eq, F64.radius_eq,
      F64.theta0_eq, F64.off150_eq, F64.angleStep_eq]

/-- Settles O54: the image starts from the zero frame buffer, and each edge adds its points. -/
theorem drawFrameDrawsThreeEdges : Obligations.DrawFrameDrawsThreeEdges := by
  refine ⟨fun idx rest => ?_, fun idx s => ⟨_, _, rfl, exec_drawFrame idx s, fun x y => pixel_triangleImage _⟩⟩
  rw [le32_eq_u32le]
  exact decodeHost_encode Config.defaultInitSeq (i := .drawFrame idx) rfl rfl rest

/-- Settles O58: between commands the sequencer is idle (`State.Inv.quiet`), and the animation is `Rendering` only while
it is in a phase (`State.Inv.running`). -/
theorem animStatusReportsTheSequencer : Obligations.AnimStatusReportsTheSequencer := by
  refine ⟨fun _ => rfl, fun s => ?_, fun s hs hb hrendering => ?_⟩
  · rw [exec_animStatus, le32_eq_u32le, le32_eq_u32le]
    cases s.anim.state <;> rfl
  · obtain ⟨-, hseq⟩ := hs.quiet hb
    exact hs.running.1 hrendering (by rw [hseq]; rfl)

/-! ### The validation of RUN_ANIM (R203) -/

section

variable {duration fps : F64}

theorem animSetup_of_not_gtZero (h : duration.gtZero = false ∨ fps.gtZero = false) :
    animSetup duration fps = .error .badTiming := by
  unfold animSetup
  obtain h | h := h
  · simp [h]
  · simp [h]

theorem animSetup_of_range (hd : duration.gtZero = true) (hf : fps.gtZero = true)
    (h : (F64.mul duration fps).floor? = none ∨ ∃ n, (F64.mul duration fps).floor? = some n ∧ 0xFFFFFFFF < n) :
    animSetup duration fps = .error .frameRange := by
  obtain h | ⟨n, h, hn⟩ := h
  · simp [animSetup, hd, hf, h]
  · simp [animSetup, hd, hf, h, hn]

theorem animSetup_of_floor (hd : duration.gtZero = true) (hf : fps.gtZero = true) {n : U32}
    (h : (F64.mul duration fps).floor? = some (n.toNat : Int)) : animSetup duration fps = .ok n := by
  have hn : ¬(0xFFFFFFFF < (n.toNat : Int)) := by have := n.isLt; omega
  simp [animSetup, hd, hf, h, hn]

theorem exec_runAnim_of_error {code : FaultCode} (h : animSetup duration fps = .error code) (s : State) :
    exec (.runAnim duration fps) s = .next (s.answered [code.byte]) := by
  simp only [exec, execRunAnim, h]
  rfl

theorem exec_runAnim_of_ok {n : U32} (h : animSetup duration fps = .ok n) (s : State) :
    exec (.runAnim duration fps) s = .next (runAnimation Config.trig n fps s) := by
  simp only [exec, execRunAnim, h]

end

/-- Settles O55: the faults are those of the validation, and which patterns are above 0.0 is `F64.gtZero_iff_toNat`. -/
theorem runAnimFaultsOnBadTiming : Obligations.RunAnimFaultsOnBadTiming := by
  intro duration fps s
  have htiming (h : duration.gtZero = false ∨ fps.gtZero = false) :
      exec (.runAnim duration fps) s = .next (s.answered [0x04#8]) :=
    exec_runAnim_of_error (animSetup_of_not_gtZero h) s
  have hrange (hd : duration.gtZero = true) (hf : fps.gtZero = true)
      (h : (F64.mul duration fps).floor? = none ∨ ∃ n, (F64.mul duration fps).floor? = some n ∧ 0xFFFFFFFF < n) :
      exec (.runAnim duration fps) s = .next (s.answered [0x05#8]) :=
    exec_runAnim_of_error (animSetup_of_range hd hf h) s
  refine ⟨fun x hx hbad => htiming ?_, fun hd hd' hf hf' hinf => ?_, htiming, hrange⟩
  · obtain rfl | rfl := hx
    · exact .inl (F64.gtZero_eq_false_of_pattern hbad)
    · exact .inr (F64.gtZero_eq_false_of_pattern hbad)
  · have hgd : duration.gtZero = true := F64.gtZero_iff_toNat.2 ⟨hd, hd'⟩
    have hgf : fps.gtZero = true := F64.gtZero_iff_toNat.2 ⟨hf, hf'⟩
    have hprod : F64.mul duration fps = F64.plusInf := by
      obtain rfl | rfl := hinf
      · exact F64.plusInf_mul hgf
      · exact F64.mul_plusInf hgd
    exact hrange hgd hgf (.inl (by rw [hprod]; decide))

end Sys2Proof.Machine

/-! ## A run of the animation

SUPPORT for O56 and O57. The loop of R213 has a closed form, `State.afterFrames`: a tick after `k` frames makes the state
after `k + 1` (`animTick_afterFrames`), and the fields and the trace of a whole run are read off it. -/

namespace Sys2Proof.Machine

/-! ### The Transport's answers, one stretch after another -/

section

variable (t : Transport) (m n : Nat)

theorem Transport.after_after : (t.after m).after n = t.after (m + n) := by
  simp [Transport.after, Nat.add_assoc]

theorem Transport.answerAt_after : (t.after m).answerAt n = t.answerAt (m + n) := by
  simp [Transport.after, Transport.answerAt, Nat.add_assoc]

theorem Transport.answers_add : t.answers (m + n) = t.answers m ++ (t.after m).answers n := by
  simp [Transport.answers, List.range_add, Transport.answerAt_after]

end

theorem Transport.answers_drop_take (t : Transport) {m n l : Nat} (h : m + n ≤ l) :
    ((t.answers l).drop m).take n = (t.after m).answers n := by
  obtain ⟨j, rfl⟩ := Nat.exists_eq_add_of_le h
  simp [Nat.add_assoc, Transport.answers_add]

theorem Status.after_append (st : Status) (oks oks' : List Bool) :
    st.after (oks ++ oks') = (st.after oks).after oks' := by
  induction oks generalizing st with
  | nil => rw [List.nil_append, Status.after_nil]
  | cons ok oks ih => rw [List.cons_append, Status.after_cons, Status.after_cons, ih]

/-! ### The state after `k` frames -/

/-- The image of frame `k` of a run (R206). -/
def State.frameImage (g : Trig) (s : State) (k : Nat) : Memory :=
  triangleImage (triangleOf g s.params.baseAngle (s.anim.index + BitVec.ofNat 32 k))

/-- The events of frame `k` of a run: its 32 transfers, then its hold (R210, R211). -/
def State.frameEvents (g : Trig) (s : State) (k : Nat) : List Event :=
  xferEvents s.addr (pageTransfers (s.frameImage g k).encodePage) ((s.transport.after (32 * k)).answers 32) ++
    [.delay s.anim.delay]

/-- What the next `k` frames make of `s` (R210 to R213). -/
def State.afterFrames (g : Trig) (s : State) (k : Nat) : State :=
  { s with
    fb := if k = 0 then s.fb else s.frameImage g (k - 1)
    status := s.status.after (s.transport.answers (32 * k))
    transport := s.transport.after (32 * k)
    trace := s.trace ++ (List.range k).flatMap (s.frameEvents g)
    anim := { s.anim with index := s.anim.index + BitVec.ofNat 32 k } }

theorem State.afterFrames_zero (g : Trig) (s : State) : s.afterFrames g 0 = s := by
  simp [State.afterFrames, Transport.after_zero, Status.after_nil]

theorem pageTransfers_length (data : Nat → List Byte) : (pageTransfers data).length = 32 := rfl

/-- Failures are counted one stretch of transfers after another; `u` is any state with the Transport of the second. -/
theorem State.failures_add {s u : State} {m : Nat} (h : u.transport = s.transport.after m) (n : Nat) :
    s.failures (m + n) = s.failures m + u.failures n := by
  rw [State.failures, State.failures, State.failures, Transport.answers_add, List.count_append, h]

/-- One more frame. -/
theorem animTick_afterFrames (g : Trig) (nfail : U32) (s : State) (k : Nat) :
    animTick g (satAdd32 nfail (s.failures (32 * k))) (s.afterFrames g k) =
      (satAdd32 nfail (s.failures (32 * (k + 1))), s.afterFrames g (k + 1)) := by
  have hfailures (u : State) (h : u.transport = s.transport.after (32 * k)) :
      s.failures (32 * (k + 1)) = s.failures (32 * k) + u.failures 32 := State.failures_add h 32
  have hindex : s.anim.index + BitVec.ofNat 32 k + 1#32 = s.anim.index + BitVec.ofNat 32 (k + 1) := by
    rw [BitVec.add_assoc, BitVec.ofNat_add]
  have hanswers : s.transport.answers (32 * (k + 1)) =
      s.transport.answers (32 * k) ++ (s.transport.after (32 * k)).answers 32 := Transport.answers_add ..
  have htransport : (s.transport.after (32 * k)).after 32 = s.transport.after (32 * (k + 1)) :=
    Transport.after_after ..
  apply Prod.ext
  · rw [animTick_nfail, satAdd32_satAdd32, flushWires_length, ← hfailures _ rfl]
  · rw [animTick_state, flushWires, pageWires_map_bytes]
    simp [State.afterFrames, State.sent, nextFrame, delayEvent, renderFrame, State.frameEvents, State.frameImage,
      pageTransfers_length, hindex, hanswers, htransport, Status.after_append, List.range_succ]

theorem animLoop_succ (g : Trig) (k : Nat) (nfail : U32) (s : State) :
    animLoop g (k + 1) nfail s = animTick g (animLoop g k nfail s).1 (animLoop g k nfail s).2 := by
  induction k generalizing nfail s with
  | zero => rfl
  | succ k ih => rw [animLoop, ih, ← animLoop]

theorem animLoop_eq (g : Trig) (k : Nat) (nfail : U32) (s : State) :
    animLoop g k nfail s = (satAdd32 nfail (s.failures (32 * k)), s.afterFrames g k) := by
  induction k with
  | zero =>
    have hnone : s.failures (32 * 0) = 0 := rfl
    rw [hnone, satAdd32_zero, State.afterFrames_zero, animLoop]
  | succ k ih => rw [animLoop_succ, ih, animTick_afterFrames]

/-! ### The run and its response (R213) -/

theorem satAdd32_zero_left (n : Nat) : satAdd32 0 n = BitVec.ofNat 32 (min n 0xFFFFFFFF) := by simp [satAdd32]

theorem frameDelay_eq (fps : F64) : frameDelay fps = F64.div 0x3FF0000000000000#64 fps := by
  have hone : F64.ofU32 1 = 0x3FF0000000000000#64 := by decide
  rw [frameDelay, hone]

theorem runAnimation_eq (g : Trig) (n : U32) (fps : F64) (s : State) : runAnimation g n fps s =
    (endRun ((startRun n fps s).afterFrames g n.toNat)).answered
      (0x00#8 :: (le32 n ++ le32 (BitVec.ofNat 32 (min (s.failures (32 * n.toNat)) 0xFFFFFFFF)))) := by
  have hfailures : (startRun n fps s).failures (32 * n.toNat) = s.failures (32 * n.toNat) := rfl
  rw [runAnimation, animLoop_eq, hfailures, satAdd32_zero_left, le32_eq_u32le, le32_eq_u32le]
  rfl

theorem startRun_frameImage (g : Trig) (n : U32) (fps : F64) (s : State) (k : Nat) :
    (startRun n fps s).frameImage g k = triangleImage (triangleOf g s.params.baseAngle (BitVec.ofNat 32 k)) := by
  simp [State.frameImage]

/-- Settles O56: the premises are those of the validation's last case, and every field is that of the run's closed form
(`runAnimation_eq`). -/
theorem runAnimRunsToDone : Obligations.RunAnimRunsToDone := by
  refine ⟨fun duration fps rest => ?_, fun duration fps s n hd hd' hf hf' hfloor => ?_⟩
  · rw [le64_eq_f64le, le64_eq_f64le, List.append_assoc [0x42#8]]
    exact decodeHost_encode Config.defaultInitSeq (i := .runAnim duration fps) rfl rfl rest
  · have hsetup : animSetup duration fps = .ok n :=
      animSetup_of_floor (F64.gtZero_iff_toNat.2 ⟨hd, hd'⟩) (F64.gtZero_iff_toNat.2 ⟨hf, hf'⟩) hfloor
    have hzero : n.toNat = 0 ↔ n = 0#32 := (BitVec.toNat_eq (x := n) (y := 0#32)).symm
    have hlast : n ≠ 0#32 → BitVec.ofNat 32 (n.toNat - 1) = n - 1#32 := fun h => by bv_omega
    refine ⟨_, exec_runAnim_of_ok hsetup s, ?_⟩
    rw [runAnimation_eq]
    refine ⟨?_, ?_, rfl, rfl, rfl, rfl, rfl, rfl, rfl, rfl, rfl⟩
    · simp [State.answered, endRun, State.afterFrames, startRun, frameDelay_eq]
    · simp only [State.answered, endRun, State.afterFrames, startRun_frameImage, hzero]
      split
      · rfl
      · rw [hlast ‹_›]

/-- Settles O57: the trace of the run's closed form (`runAnimation_eq`), each frame with its own stretch of the
answers. -/
theorem runAnimTraceIsFramesAndDelays : Obligations.RunAnimTraceIsFramesAndDelays := by
  intro duration fps s t n hsetup ht
  rw [exec_runAnim_of_ok hsetup, runAnimation_eq] at ht
  cases ht
  have hframe (k : Nat) (hk : k ∈ List.range n.toNat) : (startRun n fps s).frameEvents Config.trig k =
      xferEvents s.addr (pageTransfers
        (triangleImage (triangleOf Config.trig s.params.baseAngle (BitVec.ofNat 32 k))).encodePage)
        (((s.transport.answers (32 * n.toNat)).drop (32 * k)).take 32) ++
      [.delay (F64.div 0x3FF0000000000000#64 fps)] := by
    have hlt := List.mem_range.1 hk
    rw [State.frameEvents, startRun_frameImage, Transport.answers_drop_take _ (by omega), ← frameDelay_eq]
    rfl
  exact congrArg (s.trace ++ ·) (List.flatMap_congr hframe)

end Sys2Proof.Machine

/-! ## The session commands

SUPPORT for the obligations of 45_session.md: NOP, STATUS and STATUS_CLEAR are one response each (R230, R232, R233), and
BEGIN is the composite command of INIT's list and CLEAR's (R231). -/

namespace Sys2Proof.Machine

theorem exec_beginSession (s : State) :
    exec .beginSession s = .next (sendAndCount (initWires s.params.initSeq.toList ++ clearWires) s) := rfl

theorem exec_nop (s : State) : exec .nop s = .next (s.answered [0x00#8]) := rfl

theorem exec_status (s : State) : exec .status s =
    .next (s.answered ([0x00#8, if s.status.lastOk then 0x01#8 else 0x00#8] ++ u32le s.status.failCnt)) := rfl

theorem exec_statusClear (s : State) : exec .statusClear s =
    .next (({ s with status := { lastOk := true, failCnt := 0#32 } } : State).answered [0x00#8]) := rfl

theorem clearWires_map_bytes :
    clearWires.map Wire.bytes = pageTransfers fun _ => List.replicate 128 0x00#8 := pageWires_map_bytes _

/-- Settles O32: BEGIN is the composite command of the appended list, whose byte lists are those of its two parts. -/
theorem beginSendsInitThenClear : Obligations.BeginSendsInitThenClear := by
  refine ⟨fun _ => rfl, fun s => ?_⟩
  have hlength : (initWires s.params.initSeq.toList ++ clearWires).length = 59 := by simp
  rw [exec_beginSession, sendAndCount_eq, hlength, List.map_append, initWires_map_bytes, clearWires_map_bytes]

/-- Settles O17: NOP is its response. -/
theorem nopOnlyAnswers : Obligations.NopOnlyAnswers := ⟨fun _ => rfl, exec_nop⟩

/-- Settles O18: FAIL_CNT is answered least significant byte first, and STATUS_CLEAR only writes STATUS. -/
theorem statusIsReportedAndCleared : Obligations.StatusIsReportedAndCleared := by
  refine ⟨fun _ => ⟨rfl, rfl⟩, fun s => ⟨?_, exec_statusClear s⟩⟩
  rw [exec_status, le32_eq_u32le]

end Sys2Proof.Machine

/-! ## Faults

SUPPORT for the obligation of 60_exceptions.md: a host command either ends in a response whose status is OK or raises its
fault in the state in which it was taken up (R240, R241). -/

namespace Sys2Proof.Machine

/-- What a host command run in `s` leaves: a response with status OK after its work, or a fault raised in `s` itself. -/
inductive OkOrFault (s : State) : State → Prop where
  | ok (result : List Byte) (u : State) : OkOrFault s (respond (okByte :: result) u)
  | fault (code : FaultCode) : OkOrFault s (raiseFault code s)

/-- A conversion without a value is a result, not a fault (R107). -/
theorem respond_encodeConv_okOrFault (r : Option Address) (tag : Byte) (s : State) :
    OkOrFault s (respond (encodeConv r tag) s) := by
  cases r <;> exact .ok _ s

/-- The only faults are those of an illegal opcode and of the checks that ADDR_SET, ENCODE_PAGE, DECODE_PAGE and
RUN_ANIM make first. -/
theorem exec_okOrFault {i : Instr} {s t : State} (hi : i.isHost = true) (h : exec i s = .next t) : OkOrFault s t := by
  cases i with
  | nop | addrGet | triangle | animStatus | status | sendCmd | sendData | initDisplay | clearDisplay | flush
  | beginSession | fbZero | setPixel | drawLine | drawFrame | statusClear => cases h; exact .ok _ _
  | convTo7 | convTo8W | convTo8R | convTo10 => cases h; exact respond_encodeConv_okOrFault _ _ s
  | illegal07 | illegal14 | illegal25 | illegal31 | illegal44 | illegal53 => cases h; exact .fault .illegalOpcode
  | addrSet tag value =>
    cases ha : addressOf? tag value with
    | none => cases (exec_addrSet_of_none ha s).symm.trans h; exact .fault .badOperand
    | some a => cases (exec_addrSet_of_some ha s).symm.trans h; exact .ok [] _
  | encodePage page =>
    by_cases hp : 7 < page.toNat
    · cases (exec_encodePage_of_lt hp s).symm.trans h; exact .fault .badPage
    · cases (exec_encodePage_of_le (not_lt.1 hp) s).symm.trans h; exact .ok _ s
  | decodePage page d =>
    by_cases hp : 7 < page.toNat
    · cases (exec_decodePage_of_lt hp d s).symm.trans h; exact .fault .badPage
    · cases (exec_decodePage_of_le (not_lt.1 hp) d s).symm.trans h; exact .ok [] _
  | runAnim duration fps =>
    cases hsetup : animSetup duration fps with
    | error code => cases (exec_runAnim_of_error hsetup s).symm.trans h; exact .fault code
    | ok n => cases (exec_runAnim_of_ok hsetup s).symm.trans h; exact .ok _ _
  | wCmd | wData | ctrlByte | pageSelect | colLow | colHigh | hdr10 | initByte => cases hi

/-- Settles O16: the last response tells the two ends of `exec_okOrFault` apart, and a fault is `s` with its code
answered (`raiseFault_eq`). -/
theorem faultsArePrecise : Obligations.FaultsArePrecise := by
  intro i s t code hi h hcode hresp
  cases exec_okOrFault hi h with
  | ok result u =>
    obtain ⟨-, hlast⟩ := List.append_inj' hresp rfl
    cases hlast
    exact absurd rfl hcode
  | fault c =>
    rw [raiseFault_eq] at hresp ⊢
    obtain ⟨-, hlast⟩ := List.append_inj' hresp rfl
    cases hlast
    rfl

end Sys2Proof.Machine

/-! ## Reset

SUPPORT for the obligations of 70_reset_and_hazards.md. A step with a reset due later is one `microCycle` with the count
lower by one, and a `microCycle` never moves the count; taking a command up writes nothing of what reset keeps. -/

namespace Sys2Proof

/-- The default `INIT_SEQ` has 7 bytes before its first pair and 15 between the pairs (R133). -/
theorem Config.defaults_admissible : defaults.Admissible :=
  ⟨defaultInitSeq.toList.take 7, (defaultInitSeq.toList.drop 9).take 15, [], [], by decide⟩

end Sys2Proof

namespace Sys2Proof.Machine

/-! ### A command taken up -/

/-- A command of `s` has been taken up in `l` and nothing of it can be seen outside: no frame, no event, no answer of the
Transport drawn. The port, the reset signal and the parameters are those of `s`. -/
structure State.TakenUp (s l : State) : Prop where
  port : l.port = s.port
  responses : l.responses = s.responses
  trace : l.trace = s.trace
  transport : l.transport = s.transport
  resetIn : l.resetIn = s.resetIn
  params : l.params = s.params

theorem loadTransfers_takenUp {i : Instr} {s l : State} (hl : loadTransfers i s = some l) : s.TakenUp l := by
  cases i with
  | sendCmd | sendData | initDisplay | clearDisplay | flush | beginSession =>
    cases hl
    exact ⟨rfl, rfl, rfl, rfl, rfl, rfl⟩
  | runAnim duration fps =>
    simp only [loadTransfers] at hl
    split at hl <;> cases hl
    exact ⟨rfl, rfl, rfl, rfl, rfl, rfl⟩
  | _ => cases hl

/-- A sending command with nothing to load is a RUN_ANIM that faults (R203). -/
theorem exec_eq_raiseFault_of_loadTransfers_none {i : Instr} {s t : State} (hi : isSending i = true)
    (hl : loadTransfers i s = none) (ht : exec i s = .next t) : ∃ code, t = raiseFault code s := by
  cases i with
  | sendCmd | sendData | initDisplay | clearDisplay | flush | beginSession => cases hl
  | runAnim duration fps =>
    simp only [loadTransfers] at hl
    split at hl <;> cases hl
    next code hcode =>
      cases (exec_runAnim_of_error hcode s).symm.trans ht
      exact ⟨code, rfl⟩
  | _ => cases hi

/-- A host command that transfers nothing draws no answer. -/
theorem exec_transport_of_loadTransfers_none {i : Instr} {s t : State} (hi : i.isHost = true)
    (hl : loadTransfers i s = none) (ht : exec i s = .next t) : t.transport = s.transport := by
  obtain ⟨-, -, -, -, hsends, -⟩ := commandsWriteOnlyTheirState i s t hi ht
  by_contra hne
  obtain ⟨code, rfl⟩ := exec_eq_raiseFault_of_loadTransfers_none (hsends (.inr hne)) hl ht
  exact hne rfl

theorem owing_takenUp {i : Instr} {s t : State} (hi : i.isHost = true) (hl : loadTransfers i s = none)
    (ht : exec i s = .next t) : s.TakenUp (owing s t) := by
  obtain ⟨-, -, -, -, -, -, -, hreset, hparams, -⟩ := commandsWriteOnlyTheirState i s t hi ht
  have htrace := exec_trace_of_loadTransfers_none hi hl ht
  have htransport := exec_transport_of_loadTransfers_none hi hl ht
  exact ⟨rfl, rfl, htrace, htransport, hreset, hparams⟩

/-- Every host command can be taken up. -/
theorem loadCommand_takenUp {i : Instr} (hi : i.isHost = true) (s : State) :
    ∃ l, loadCommand i s = .next l ∧ s.TakenUp l := by
  cases hl : loadTransfers i s with
  | some l => exact ⟨l, by simp only [loadCommand, hl], loadTransfers_takenUp hl⟩
  | none =>
    obtain ⟨t, ht⟩ := exec_next i s
    exact ⟨owing s t, by simp only [loadCommand, hl, ht], owing_takenUp hi hl ht⟩

/-! ### The count of the reset signal -/

@[simp] theorem seqAction_resetIn (g : Trig) (s : State) : (seqAction g s).resetIn = s.resetIn := by
  unfold seqAction
  split
  next => rfl
  next =>
    split
    next => rfl
    next => split <;> rfl
    next => rfl
    next => rfl

@[simp] theorem microStep_resetIn (s : State) : (microStep s).resetIn = s.resetIn := by
  unfold microStep microStepWith
  split
  next => exact seqAction_resetIn _ s
  next => rfl
  next => split <;> rfl
  next => rfl

theorem microCycle_of_busy {s : State} (hb : s.port.busy = true) : microCycle s = .next (microStep s) := if_pos hb

theorem microCycle_of_command {s : State} (hb : s.port.busy = false) {i : Instr} {rest : List Byte}
    (h : decodeHost (s.port.rx ++ s.port.incoming) = .command i rest) :
    microCycle s = loadCommand i (accept rest s) := by
  simp [microCycle, nextCommand, hb, h]

theorem microCycle_of_incomplete {s : State} (hb : s.port.busy = false)
    (h : decodeHost (s.port.rx ++ s.port.incoming) = .incomplete) :
    microCycle s = if s.port.incoming ≠ [] then .next (receive s) else .next s := by
  simp [microCycle, nextCommand, hb, h]

/-- Nothing that the block does moves the reset signal: the host alone raises it (R270). -/
theorem microCycle_keeps_resetIn (s : State) : ∃ t, microCycle s = .next t ∧ t.resetIn = s.resetIn := by
  cases hb : s.port.busy with
  | true => exact ⟨_, microCycle_of_busy hb, microStep_resetIn s⟩
  | false =>
    cases hd : decodeHost (s.port.rx ++ s.port.incoming) with
    | command i rest =>
      obtain ⟨l, hl, htaken⟩ := loadCommand_takenUp (decodeHost_isHost hd) (accept rest s)
      exact ⟨l, (microCycle_of_command hb hd).trans hl, htaken.resetIn⟩
    | incomplete =>
      rw [microCycle_of_incomplete hb hd]
      split
      · exact ⟨receive s, rfl, receive_resetIn s⟩
      · exact ⟨s, rfl, rfl⟩

/-! ### Steps while a reset is due -/

section

variable {s : State}

theorem step_of_reset_now (hr : s.resetIn = some 0) : step s = .next (takeReset s) := by
  simp only [step, cycle, hr]

theorem step_of_reset_later {k : Nat} (hr : s.resetIn = some (k + 1)) :
    step s = microCycle { s with resetIn := some k } := by
  simp only [step, cycle, hr]

theorem step_counts_down {k : Nat} (hr : s.resetIn = some (k + 1)) : ∃ t, step s = .next t ∧ t.resetIn = some k := by
  rw [step_of_reset_later hr]
  exact microCycle_keeps_resetIn _

theorem run_succ_of_step {t : State} (h : step s = .next t) (k : Nat) :
    Host.Core.run Sys2Proof.core (k + 1) s = Host.Core.run Sys2Proof.core k t := by
  have hcore : Sys2Proof.core.step s = .next t := h
  simp only [Host.Core.run, hcore]

/-- Nothing stops the machine before the reset, which falls in whatever state `u` it has reached by then. -/
theorem run_reaches_takeReset {k : Nat} (hr : s.resetIn = some k) :
    ∃ u, Host.Core.run Sys2Proof.core (k + 1) s = .next (takeReset u) := by
  induction k generalizing s with
  | zero => exact ⟨s, run_succ_of_step (step_of_reset_now hr) 0⟩
  | succ k ih =>
    obtain ⟨t, ht, hk⟩ := step_counts_down hr
    obtain ⟨u, hu⟩ := ih hk
    exact ⟨u, (run_succ_of_step ht (k + 1)).trans hu⟩

/-- A reset due after one micro-step leaves time to take a command up, and falls before its response. -/
theorem step_of_command_before_reset (hr : s.resetIn = some 1) (hb : s.port.busy = false) {i : Instr}
    {rest : List Byte} (h : decodeHost (s.port.rx ++ s.port.incoming) = .command i rest) :
    ∃ l, step s = .next l ∧ (accept rest { s with resetIn := some 0 }).TakenUp l := by
  rw [step_of_reset_later hr, microCycle_of_command (s := { s with resetIn := some 0 }) hb h]
  exact loadCommand_takenUp (decodeHost_isHost h) _

end

/-! ### The obligations -/

/-- Settles O4: reset is the first branch of `cycle`; a command taken up in the step before has left alone all that
`takeReset` keeps (`step_of_command_before_reset`). -/
theorem resetWinsOverCommandInProgress : Obligations.ResetWinsOverCommandInProgress := by
  refine ⟨fun s hr => step_of_reset_now hr, fun s i rest hr hb h => ?_⟩
  obtain ⟨l, hl, htaken⟩ := step_of_command_before_reset hr hb h
  have hbusy : l.port.busy = true := by rw [htaken.port]; rfl
  refine ⟨l, hl, hbusy, htaken.responses, htaken.trace, ?_⟩
  rw [step_of_reset_now htaken.resetIn, takeReset, htaken.port, htaken.transport, htaken.params]
  rfl

/-- Settles O5: by induction on the count, as every step before the reset lowers it by one (`run_reaches_takeReset`). -/
theorem dueResetArrives : Obligations.DueResetArrives := by
  intro k s hr
  obtain ⟨u, hu⟩ := run_reaches_takeReset hr
  exact ⟨takeReset u, hu, rfl, rfl, rfl, rfl, rfl, rfl, rfl, rfl, rfl, rfl, rfl⟩

/-- Settles O1: the listed values are those of the definition, and the empty FB is the zero one. -/
theorem resetStateAsListed : Obligations.ResetStateAsListed :=
  ⟨rfl, rfl, rfl, rfl, rfl, rfl, rfl, fun x y _ _ => Memory.zero_pixel x y, rfl, rfl, rfl, rfl, rfl, rfl⟩

/-- Settles O2: the default `INIT_SEQ` is admissible, and every other clause speaks of the listed reset values. -/
theorem resetMeetsInvariant : Obligations.ResetMeetsInvariant where
  admissible := Config.defaults_admissible
  memWf := rfl
  indexLe := Nat.le_refl _
  idleZero _ := ⟨rfl, rfl, rfl⟩
  doneAll h := nomatch h
  failSeen h := nomatch h
  quiet _ := ⟨rfl, rfl⟩
  running := by decide
  framesLeft := by decide
  noOverlap := by decide

end Sys2Proof.Machine
